-- ==== Sys2Proof/Word.lean ====
section
/-! DEFINITION. The widths of the values the ports and registers carry (00_scope.md R7, R8), and the
8-byte payload array (R11, 20_memory.md R27). Byte order and bit fields are in Machine/Operands.lean. -/

namespace Sys2Proof

/-- A payload byte, an address or a status byte (R7). -/
abbrev Byte := BitVec 8

/-- A 32-bit operand or result field (R8, R43). -/
abbrev Word := BitVec 32

/-- The 29-bit identifier (R40). -/
abbrev Ident := BitVec 29

/-- The 26-bit message-type (R44). -/
abbrev MsgType := BitVec 26

/-- The array `P[0..7]` of eight bytes, `b0` the first on the wire (R11). -/
structure Payload where
  b0 : Byte
  b1 : Byte
  b2 : Byte
  b3 : Byte
  b4 : Byte
  b5 : Byte
  b6 : Byte
  b7 : Byte
deriving DecidableEq, Repr

/-- Eight bytes of zero. -/
def Payload.zero : Payload := ⟨0, 0, 0, 0, 0, 0, 0, 0⟩

end Sys2Proof
end

