-- ==== Sys2Proof/Config.lean ====
section
/-! DEFINITION. The named parameters of 00_scope.md R9. The parameters that change what the block
computes (HAS_MATCHER, RUNSTATE_LEN, the reset draws) are data of the State or of the reset input, so
that every statement quantifies over them; here are only the values that `State.reset` takes for them.
The others are values the host passes as operands: no rule of the block reads them (R9, D25). -/

namespace Sys2Proof.Config

/-- DESIGN CHOICE (unsafe for statements about `State.reset` alone): HAS_MATCHER is OPEN (R9); the
machine at `State.reset` has the matcher. Log entry 2. -/
def hasMatcher : Bool := true

/-- DESIGN CHOICE (unsafe for statements about `State.reset` alone): RUNSTATE_LEN is OPEN, 1 to 8
(R9); the machine at `State.reset` has 8. Log entry 2. -/
def runStateLen : BitVec 4 := 8

/-- DESIGN CHOICE (unsafe for statements about `State.reset` alone): EXP_ID_RESET is a draw (R26),
fixed to 0 at `State.reset`, as R26 lets a simulator do. Log entry 1. -/
def expIdReset : Ident := 0

/-- DESIGN CHOICE, as `expIdReset`: the RESP part of the draw RESP_RESET (R26). Log entry 1. -/
def respReset : Payload := Payload.zero

/-- DESIGN CHOICE, as `expIdReset`: the RESP_LEN part of the draw RESP_RESET (R26). Log entry 1. -/
def respLenReset : BitVec 4 := 0

/-- DESIGN CHOICE, as `expIdReset`: the RESP_ERR part of the draw RESP_RESET (R26). Log entry 1. -/
def respErrReset : BitVec 3 := 0

/-- The commands of the source's enumeration (91_not_in_source.md N4). -/
inductive CommandName where
  | readActualValues
  | readModuleCount
  | readModuleStatus
  | setSystemOutput
  | setModuleOutput
  | switchReadiness
  | ledControl
  | readAcInput
  | limitInputCurrent
  | slowStartup
deriving DecidableEq, Repr

/-- Free value: the parameters CMD_<name> (R9, N4); no block rule depends on them. Log entry 9. -/
opaque commandCode : CommandName → BitVec 6

/-- Free value: the parameter BCAST_ADDR (R9, N5). Log entry 9. -/
opaque bcastAddr : Byte

/-- Free value: the parameter MON_ADDR (R9, N5). Log entry 9. -/
opaque monAddr : Byte

/-- Free value: the parameter HOST_ADDR (R9, N5). Log entry 9. -/
opaque hostAddr : Byte

/-- The parameter TIMEOUT_MS, host side; no block rule reads it (R9, R100). -/
def timeoutMs : Nat := 200

end Sys2Proof.Config
end

