-- ==== Sys2Proof/Syntax.lean ====
section
/-! DEFINITION. What the host presents on the ports (30_encoding.md R45, R47, R49, R52), the
instructions of spec/opcode_table.json, and the source-level operations of R55. -/

namespace Sys2Proof

/-- The operand fields the command port carries with each command word (R49), each exactly as wide as
the value it carries. -/
structure Operands where
  src : Byte
  dst : Byte
  cmd : BitVec 6
  dev : BitVec 4
  id  : Word
  v   : Word
  c   : Word
  en  : Bool
  p   : Payload
  len : Byte
deriving DecidableEq, Repr

/-- Every operand field 0. -/
def Operands.zero : Operands :=
  { src := 0, dst := 0, cmd := 0, dev := 0, id := 0, v := 0, c := 0, en := false, p := Payload.zero, len := 0 }

/-- One operation as presented on the command port: the 8-bit command word (R47) and the operand
fields beside it (R49). -/
structure Command where
  word : Byte
  ops  : Operands
deriving DecidableEq, Repr

/-- A frame as delivered on the receive port (R45, R52); `dlc` may be any 4-bit value (D28). -/
structure Frame where
  id   : Ident
  ide  : Bool
  dlc  : BitVec 4
  data : Payload
deriving DecidableEq, Repr

/-- What one step of the block can be given: an operation or a receive event (R13, R80). -/
inductive Presented where
  | command (c : Command)
  | receive (f : Frame)
deriving DecidableEq, Repr

/-- One constructor per row of spec/opcode_table.json, with the operand fields its rule reads. -/
inductive Instr where
  | packid (src dst : Byte) (cmd : BitVec 6) (dev : BitVec 4)
  | unpackid (id : Word)
  | errcode (id : Word)
  | replyid (id : Word)
  | msgtype (id : Word)
  | encframe (src dst : Byte) (cmd : BitVec 6) (dev : BitVec 4) (p : Payload) (len : Byte)
  | encvc (v c : Word)
  | decvc (p : Payload)
  | decstat (p : Payload)
  | deccount (p : Payload)
  | encrun (en : Bool)
  | issue (id : Word)
  | consume
  | mstat
  | rxframe (f : Frame)
deriving DecidableEq, Repr

/-- A line of the assembly of R55 as a tree: the operand values are source-level numbers of any size,
a payload is the list of its bytes in index order. Whether they fit the fields is
`Source.fits` (WellFormed.lean). -/
inductive Source where
  | packid (src dst cmd dev : Nat)
  | unpackid (id : Nat)
  | errcode (id : Nat)
  | replyid (id : Nat)
  | msgtype (id : Nat)
  | encframe (src dst cmd dev : Nat) (p : List Nat) (len : Nat)
  | encvc (v c : Nat)
  | decvc (p : List Nat)
  | decstat (p : List Nat)
  | deccount (p : List Nat)
  | encrun (en : Nat)
  | issue (id : Nat)
  | consume
  | mstat
  | rx (id ide dlc : Nat) (data : List Nat)
deriving DecidableEq, Repr

end Sys2Proof
end

