-- ==== Sys2Proof/Machine/State.lean ====
section
/-! DEFINITION. The state of the block: the matcher's registers (10_state.md R18), the parameters
(00_scope.md R9), what the output ports show (30_encoding.md R51, R52), and what the host presents next
(10_state.md R16). -/

namespace Sys2Proof.Machine

/-- The state tag of the matcher (10_state.md R19). No step produces `failed` (R20). -/
inductive MatchState where
  | idle
  | issued
  | completed
  | failed
deriving DecidableEq, Repr

/-- The PendingRequest record (10_state.md R18). -/
structure Matcher where
  /-- `STATE` -/
  state   : MatchState
  /-- `EXP_ID` -/
  expId   : Ident
  /-- `EXP_MT` -/
  expMt   : MsgType
  /-- `RESP[0..7]` -/
  resp    : Payload
  /-- `RESP_LEN` -/
  respLen : BitVec 4
  /-- `RESP_ERR` -/
  respErr : BitVec 3
deriving DecidableEq, Repr

/-- The response status `out.ST` (30_encoding.md R51); its code 3 is never driven, so no constructor
has it. -/
inductive Status where
  | ok
  | illegal
  | notReady
deriving DecidableEq, Repr

/-- The result fields `out.*` (30_encoding.md R51), by the spec's names. -/
structure Result where
  st    : Status
  id    : Word
  ide   : Bool
  err   : BitVec 3
  known : Bool
  dev   : BitVec 4
  cmd   : BitVec 6
  dst   : Byte
  src   : Byte
  mt    : Word
  rp    : Payload
  rlen  : BitVec 4
  cur   : Word
  volt  : Word
  group : Byte
  temp  : Byte
  s0    : Byte
  s1    : Byte
  s2    : Byte
  count : Byte
  mst   : BitVec 2
deriving DecidableEq, Repr

/-- Every result field 0 (`ST` 0 is OK): what a reset drives (70_reset_and_hazards.md R104), and what an
operation drives on the fields its rule does not write (30_encoding.md R51). -/
def Result.zero : Result :=
  { st := .ok, id := 0, ide := false, err := 0, known := false, dev := 0, cmd := 0, dst := 0, src := 0, mt := 0,
    rp := Payload.zero, rlen := 0, cur := 0, volt := 0, group := 0, temp := 0, s0 := 0, s1 := 0, s2 := 0, count := 0,
    mst := 0 }

/-- What the block gives back at the end of a step: the result fields for an operation or a reset, the
bit `rx.matched` for a receive event, "observable for that event only" (30_encoding.md R51, R52). No
step reads it (10_state.md R15). Log entry 4. -/
inductive Response where
  | result (r : Result)
  | matched (m : Bool)
deriving DecidableEq, Repr

/-- The draws of a reset, EXP_ID_RESET and RESP_RESET: "an unconstrained input of the reset"
(10_state.md R26). -/
structure ResetDraw where
  expId   : Ident
  resp    : Payload
  respLen : BitVec 4
  respErr : BitVec 3
deriving DecidableEq, Repr

/-- One thing the outside presents to the block. -/
inductive Input where
  /-- An operation on the command port. -/
  | command (c : Command)
  /-- A frame on the receive port. -/
  | receive (f : Frame)
  /-- An operation and a frame at the same time. The block "performs them one after the other in an
  order it does not fix" (60_exceptions.md R98): `receiveFirst` is that order, the block's to take and
  free in every statement. Log entry 5. -/
  | simultaneous (c : Command) (f : Frame) (receiveFirst : Bool)
  /-- The reset input, "a step of its own" (70_reset_and_hazards.md R104). -/
  | reset (d : ResetDraw)
deriving DecidableEq, Repr

/-- The machine. `matcher` is `none` when HAS_MATCHER is false: "the block has no matcher registers"
(42_matcher.md R78). -/
structure State where
  /-- The parameter RUNSTATE_LEN, 1 to 8 (00_scope.md R9); no step changes it. -/
  runStateLen : BitVec 4
  /-- The registers of the matcher, when HAS_MATCHER is true. -/
  matcher     : Option Matcher
  /-- What the output ports show at the end of the last step. -/
  response    : Response
  /-- What the host presents next, the first entry first: the "program" of 10_state.md R16. -/
  inputs      : List Input
deriving DecidableEq, Repr

/-- The block has no trap and no operation that stops it (60_exceptions.md R90: "Every abnormal outcome
of an operation is reported in that operation's response status"), so nothing raises a fault: the type
has no constructor. -/
inductive Fault where
deriving DecidableEq, Repr

/-- Why the model gives an instruction no meaning. -/
inductive Refusal where
  /-- Raised only by an arm of `exec` for an instruction that has no meaning yet (safe: the run stops);
  no arm raises it. -/
  | notModelled (mnemonic : String)
deriving DecidableEq, Repr

/-- The parameter HAS_MATCHER of this machine (00_scope.md R9). -/
def State.hasMatcher (s : State) : Bool := s.matcher.isSome

/-- The machine after its reset step (10_state.md R26, 70_reset_and_hazards.md R104), nothing presented
yet; the draws and the two open parameters have the values of Config. -/
def State.reset : State :=
  { runStateLen := Config.runStateLen,
    matcher :=
      if Config.hasMatcher then
        some { state := .idle, expId := Config.expIdReset, expMt := Config.expIdReset.setWidth 26, resp := Config.respReset,
               respLen := Config.respLenReset, respErr := Config.respErrReset }
      else none,
    response := .result Result.zero, inputs := [] }

end Sys2Proof.Machine
end

