-- ==== Sys2Proof/Machine/Operands.lean ====
section
/-! DEFINITION. How operands are read and results formed: the identifier's fields (30_encoding.md R40,
R43, R44), the byte order of payloads (00_scope.md R11, 20_memory.md R29), zero extension (R10). -/

namespace Sys2Proof.Machine

/-- `in.id[28:0]`: bits 31:29 of an identifier operand are ignored (30_encoding.md R43). -/
def readIdent (w : Word) : Ident := w.extractLsb' 0 29

/-- `zext_32` of an identifier (30_encoding.md R43). -/
def identWord (id : Ident) : Word := id.setWidth 32

/-- `ERR`, bits 28:26 (30_encoding.md R40). -/
def errField (id : Ident) : BitVec 3 := id.extractLsb' 26 3

/-- `DEV`, bits 25:22 (30_encoding.md R40). -/
def devField (id : Ident) : BitVec 4 := id.extractLsb' 22 4

/-- `CMD`, bits 21:16 (30_encoding.md R40). -/
def cmdField (id : Ident) : BitVec 6 := id.extractLsb' 16 6

/-- `DST`, bits 15:8 (30_encoding.md R40). -/
def dstField (id : Ident) : Byte := id.extractLsb' 8 8

/-- `SRC`, bits 7:0 (30_encoding.md R40). -/
def srcField (id : Ident) : Byte := id.extractLsb' 0 8

/-- `ERR : DEV : CMD : DST : SRC` (30_encoding.md R40). -/
def packIdent (err : BitVec 3) (dev : BitVec 4) (cmd : BitVec 6) (dst src : Byte) : Ident :=
  err ++ dev ++ cmd ++ dst ++ src

/-- The identifier the block encodes: its error code is NORMAL, 0 (30_encoding.md R41). -/
def encodeIdent (dev : BitVec 4) (cmd : BitVec 6) (dst src : Byte) : Ident := packIdent 0 dev cmd dst src

/-- `reply(x) = x[28:16] : x[7:0] : x[15:8]` (40_identifier.md R60). -/
def reply (x : Ident) : Ident := x.extractLsb' 16 13 ++ srcField x ++ dstField x

/-- The message-type `id[25:0]` (30_encoding.md R44). -/
def msgType (id : Ident) : MsgType := id.extractLsb' 0 26

/-- `zext_32` of a message-type (30_encoding.md R44). -/
def msgTypeWord (mt : MsgType) : Word := mt.setWidth 32

/-- `P[i]` (00_scope.md R11). -/
def payloadByte (p : Payload) (i : Fin 8) : Byte :=
  match i with
  | 0 => p.b0
  | 1 => p.b1
  | 2 => p.b2
  | 3 => p.b3
  | 4 => p.b4
  | 5 => p.b5
  | 6 => p.b6
  | 7 => p.b7

/-- The payload whose byte `i` is `b i`. -/
def payloadOf (b : Fin 8 → Byte) : Payload := ⟨b 0, b 1, b 2, b 3, b 4, b 5, b 6, b 7⟩

/-- `be64(P)`: byte 0 is the most significant (00_scope.md R11). -/
def be64 (p : Payload) : BitVec 64 := p.b0 ++ p.b1 ++ p.b2 ++ p.b3 ++ p.b4 ++ p.b5 ++ p.b6 ++ p.b7

/-- The 32-bit big-endian field of four bytes (00_scope.md R11, `be32`). -/
def be32 (b0 b1 b2 b3 : Byte) : Word := b0 ++ b1 ++ b2 ++ b3

/-- The byte of a 32-bit word from bit `lo` up. -/
def wordByte (w : Word) (lo : Nat) : Byte := w.extractLsb' lo 8

/-- Two 32-bit big-endian fields, the first in bytes 0 to 3 (41_payload.md R69). -/
def payloadOfWords (v c : Word) : Payload :=
  ⟨wordByte v 24, wordByte v 16, wordByte v 8, wordByte v 0, wordByte c 24, wordByte c 16, wordByte c 8, wordByte c 0⟩

/-- The length a frame gets: `min(in.len, 8)` (40_identifier.md R62). -/
def frameLength (len : Byte) : Nat := min len.toNat 8

/-- The bytes below index `n`, zero from there on (40_identifier.md R62). -/
def keepFirst (n : Nat) (p : Payload) : Payload :=
  payloadOf fun i => if i.val < n then payloadByte p i else 0

/-- Byte 0 of the run-state payload: 0x00 enables and 0x01 disables, "deliberately inverted"
(41_payload.md R75). -/
def runStateByte (en : Bool) : Byte := if en then 0x00 else 0x01

end Sys2Proof.Machine
end

