-- ==== Sys2Proof/Machine/Flags.lean ====
section
/-! DEFINITION. Codes and conditions: the numeric codes of the states and statuses (10_state.md R19,
30_encoding.md R51), the classified error codes (40_identifier.md R59), the output `cmpl`
(10_state.md R22), the test of a status condition (41_payload.md R73). -/

namespace Sys2Proof.Machine

/-- The 2-bit encoding of `STATE` (10_state.md R19). -/
def MatchState.code : MatchState → BitVec 2
  | .idle => 0
  | .issued => 1
  | .completed => 2
  | .failed => 3

/-- The 2-bit code on `out.ST` (30_encoding.md R51). -/
def Status.code : Status → BitVec 2
  | .ok => 0
  | .illegal => 1
  | .notReady => 2

/-- The classes of the error code (40_identifier.md R59, 60_exceptions.md R95). -/
inductive ErrorClass where
  | normal
  | commandInvalid
  | dataInvalid
  | startOfProcessing
  | unclassified
deriving DecidableEq, Repr

/-- "NORMAL(0), COMMAND_INVALID(2), DATA_INVALID(3), START_OF_PROCESSING(7); all other values are
unclassified" (40_identifier.md R59). -/
def errorClass (e : BitVec 3) : ErrorClass :=
  match e with
  | 0#3 => .normal
  | 2#3 => .commandInvalid
  | 3#3 => .dataInvalid
  | 7#3 => .startOfProcessing
  | _ => .unclassified

/-- `known(e)`: the error code is classified (40_identifier.md R59). -/
def known (e : BitVec 3) : Bool := errorClass e != .unclassified

/-- The level output `cmpl`: 1 exactly when `STATE` = Completed, 0 at all times without the matcher
(10_state.md R22). -/
def State.cmpl (s : State) : Bool :=
  match s.matcher with
  | none => false
  | some m => m.state == .completed

/-- Condition `k` of a status byte: `status & (1<<k) != 0` (41_payload.md R73, C7). The block has no
operation for it; it is how a consumer reads `out.S0`, `out.S1`, `out.S2`. -/
def statusCondition (s : Byte) (k : Fin 8) : Bool := s &&& (1#8 <<< k.val) != 0

end Sys2Proof.Machine
end

