-- ==== Sys2Proof/Machine/Ops.lean ====
section
/-! DEFINITION. The shared operations: answering on the result fields, the abnormal outcomes ILLEGAL and
NOTREADY (60_exceptions.md R91, R92), the writes of the matcher's registers (42_matcher.md), reset
(70_reset_and_hazards.md R104). -/

namespace Sys2Proof.Machine

/-- Drive the result fields (30_encoding.md R51); no register changes. -/
def State.answer (s : State) (r : Result) : State := { s with response := .result r }

/-- Drive `rx.matched` (30_encoding.md R52). -/
def State.answerRx (s : State) (m : Bool) : State := { s with response := .matched m }

/-- Write the matcher's registers. -/
def State.setMatcher (s : State) (m : Matcher) : State := { s with matcher := some m }

/-- The result fields of an abnormal outcome: every field but `ST` is 0 (30_encoding.md R51). -/
def Result.only (st : Status) : Result := { Result.zero with st := st }

/-- `raise IllegalOperation(W)`: `out.ST <- ILLEGAL` and no other write (60_exceptions.md R91). It is all
of the block's exception entry: nothing is saved and there is no handler (R90). -/
def State.answerIllegal (s : State) : State := s.answer (Result.only .illegal)

/-- NOTREADY: no captured reply to take, no register changes (60_exceptions.md R92). -/
def State.answerNotReady (s : State) : State := s.answer (Result.only .notReady)

/-- Run a matcher operation, or answer ILLEGAL when HAS_MATCHER is false (42_matcher.md R78). -/
def State.ifMatcher (s : State) (act : Matcher → State) : State :=
  match s.matcher with
  | none => s.answerIllegal
  | some m => act m

/-- ISSUE's writes: `EXP_ID`, `EXP_MT` and `STATE`, in every state (42_matcher.md R79). -/
def Matcher.arm (m : Matcher) (id : Ident) : Matcher :=
  { m with expId := reply id, expMt := msgType (reply id), state := .issued }

/-- The matching rule: in Issued the message-type, in every other state the whole identifier, and never a
frame without the extended flag (42_matcher.md R81, D14, D33). -/
def Matcher.accepts (m : Matcher) (f : Frame) : Bool :=
  if f.ide then
    match m.state with
    | .issued => msgType f.id == m.expMt
    | .idle => f.id == m.expId
    | .completed => f.id == m.expId
    | .failed => f.id == m.expId
  else false

/-- A match's writes: all eight bytes, the length as given, the error code, `STATE` (42_matcher.md R81). -/
def Matcher.capture (m : Matcher) (f : Frame) : Matcher :=
  { m with resp := f.data, respLen := f.dlc, respErr := errField f.id, state := .completed }

/-- CONSUME's write on success: `STATE` alone (42_matcher.md R84). -/
def Matcher.release (m : Matcher) : Matcher := { m with state := .idle }

/-- The matcher's registers after a reset with the draws `d` (10_state.md R26). -/
def resetMatcher (d : ResetDraw) : Matcher :=
  { state := .idle, expId := d.expId, expMt := msgType d.expId, resp := d.resp, respLen := d.respLen, respErr := d.respErr }

/-- The reset step: the matcher's registers, if the block has them, to the reset values, every result
field to 0 (70_reset_and_hazards.md R104). -/
def State.takeReset (s : State) (d : ResetDraw) : State :=
  { s with matcher := s.matcher.map fun _ => resetMatcher d, response := .result Result.zero }

end Sys2Proof.Machine
end

