-- ==== Sys2Proof/Machine/FrameMatcher.lean ====
section
/-! DEFINITION. The frame matcher (42_matcher.md): ISSUE, RXFRAME, CONSUME, MSTAT. -/

namespace Sys2Proof.Machine

/-- ISSUE (42_matcher.md R79): accepted in every state; the captured reply is left as it was. -/
def execIssue (id : Word) (s : State) : Host.Outcome State Fault Refusal :=
  .next (s.ifMatcher fun m => (s.setMatcher (m.arm (readIdent id))).answer Result.zero)

/-- CONSUME (42_matcher.md R84): takes the reply in Completed, answers NOTREADY in every other state. -/
def execConsume (s : State) : Host.Outcome State Fault Refusal :=
  .next (s.ifMatcher fun m =>
    if m.state = .completed then
      (s.setMatcher m.release).answer { Result.zero with
        rp := m.resp, rlen := m.respLen, err := m.respErr, known := known m.respErr }
    else s.answerNotReady)

/-- MSTAT (42_matcher.md R85): reads the registers and changes none. -/
def execMstat (s : State) : Host.Outcome State Fault Refusal :=
  .next (s.ifMatcher fun m => s.answer { Result.zero with
    mst := m.state.code, id := identWord m.expId, mt := msgTypeWord m.expMt, rp := m.resp, rlen := m.respLen,
    err := m.respErr })

/-- RXFRAME (42_matcher.md R81): a frame that does not match is discarded "with no error raised" (R83);
without the matcher every event is ignored with `rx.matched` 0 (R78). -/
def execRxframe (f : Frame) (s : State) : Host.Outcome State Fault Refusal :=
  .next (match s.matcher with
    | none => s.answerRx false
    | some m => if m.accepts f then (s.setMatcher (m.capture f)).answerRx true else s.answerRx false)

end Sys2Proof.Machine
end

