-- ==== Sys2Proof/Machine/Identifier.lean ====
section
/-! DEFINITION. The identifier and frame operations (40_identifier.md). Each is a function of its
operands alone (10_state.md R14) and always ends OK. -/

namespace Sys2Proof.Machine

/-- PACKID (40_identifier.md R57). -/
def execPackid (src dst : Byte) (cmd : BitVec 6) (dev : BitVec 4) (s : State) : Host.Outcome State Fault Refusal :=
  .next (s.answer { Result.zero with id := identWord (encodeIdent dev cmd dst src), ide := true })

/-- UNPACKID (40_identifier.md R58). -/
def execUnpackid (id : Word) (s : State) : Host.Outcome State Fault Refusal :=
  let x := readIdent id
  .next (s.answer { Result.zero with
    err := errField x, dev := devField x, cmd := cmdField x, dst := dstField x, src := srcField x })

/-- ERRCODE (40_identifier.md R59). -/
def execErrcode (id : Word) (s : State) : Host.Outcome State Fault Refusal :=
  let e := errField (readIdent id)
  .next (s.answer { Result.zero with err := e, known := known e })

/-- REPLYID (40_identifier.md R60). -/
def execReplyid (id : Word) (s : State) : Host.Outcome State Fault Refusal :=
  .next (s.answer { Result.zero with id := identWord (reply (readIdent id)) })

/-- MSGTYPE (40_identifier.md R61, C1). -/
def execMsgtype (id : Word) (s : State) : Host.Outcome State Fault Refusal :=
  .next (s.answer { Result.zero with mt := msgTypeWord (msgType (readIdent id)) })

/-- ENCFRAME (40_identifier.md R62): a length above 8 truncates, "not an error". -/
def execEncframe (src dst : Byte) (cmd : BitVec 6) (dev : BitVec 4) (p : Payload) (len : Byte) (s : State) :
    Host.Outcome State Fault Refusal :=
  let n := frameLength len
  .next (s.answer { Result.zero with
    id := identWord (encodeIdent dev cmd dst src), ide := true, rlen := BitVec.ofNat 4 n, rp := keepFirst n p })

end Sys2Proof.Machine
end

