-- ==== Sys2Proof/Machine/PayloadCodec.lean ====
section
/-! DEFINITION. The payload encoders and decoders (41_payload.md). They move bits and do no arithmetic
(R69, R70, R71); the decoders are total over every 8-byte input (R68). -/

namespace Sys2Proof.Machine

/-- ENCVC (41_payload.md R69): voltage in bytes 0 to 3, current in bytes 4 to 7. -/
def execEncvc (v c : Word) (s : State) : Host.Outcome State Fault Refusal :=
  .next (s.answer { Result.zero with rp := payloadOfWords v c, rlen := 8 })

/-- DECVC (41_payload.md R70): the low word is the current, the high word the voltage. -/
def execDecvc (p : Payload) (s : State) : Host.Outcome State Fault Refusal :=
  let w := be64 p
  .next (s.answer { Result.zero with cur := w.extractLsb' 0 32, volt := w.extractLsb' 32 32 })

/-- DECSTAT (41_payload.md R72): the mapping is interleaved, status0 in bits 15:8 and status1 in 7:0. -/
def execDecstat (p : Payload) (s : State) : Host.Outcome State Fault Refusal :=
  let w := be64 p
  .next (s.answer { Result.zero with
    group := w.extractLsb' 40 8, temp := w.extractLsb' 24 8, s2 := w.extractLsb' 16 8, s0 := w.extractLsb' 8 8,
    s1 := w.extractLsb' 0 8 })

/-- DECCOUNT (41_payload.md R74). -/
def execDeccount (p : Payload) (s : State) : Host.Outcome State Fault Refusal :=
  .next (s.answer { Result.zero with count := (be64 p).extractLsb' 40 8 })

/-- ENCRUN (41_payload.md R75); the length is the parameter RUNSTATE_LEN. -/
def execEncrun (en : Bool) (s : State) : Host.Outcome State Fault Refusal :=
  .next (s.answer { Result.zero with rp := { Payload.zero with b0 := runStateByte en }, rlen := s.runStateLen })

end Sys2Proof.Machine
end

