-- ==== Sys2Proof/Machine/Dispatch.lean ====
section
/-! DEFINITION. One arm per instruction of spec/opcode_table.json: a direct call of its meaning. -/

namespace Sys2Proof.Machine

def exec (i : Instr) (s : State) : Host.Outcome State Fault Refusal :=
  match i with
  | .packid src dst cmd dev => Sys2Proof.Machine.execPackid src dst cmd dev s
  | .unpackid id => Sys2Proof.Machine.execUnpackid id s
  | .errcode id => Sys2Proof.Machine.execErrcode id s
  | .replyid id => Sys2Proof.Machine.execReplyid id s
  | .msgtype id => Sys2Proof.Machine.execMsgtype id s
  | .encframe src dst cmd dev p len => Sys2Proof.Machine.execEncframe src dst cmd dev p len s
  | .encvc v c => Sys2Proof.Machine.execEncvc v c s
  | .decvc p => Sys2Proof.Machine.execDecvc p s
  | .decstat p => Sys2Proof.Machine.execDecstat p s
  | .deccount p => Sys2Proof.Machine.execDeccount p s
  | .encrun en => Sys2Proof.Machine.execEncrun en s
  | .issue id => Sys2Proof.Machine.execIssue id s
  | .consume => Sys2Proof.Machine.execConsume s
  | .mstat => Sys2Proof.Machine.execMstat s
  | .rxframe f => Sys2Proof.Machine.execRxframe f s

end Sys2Proof.Machine
end

