-- ==== Sys2Proof/WellFormed.lean ====
section
/-! DEFINITION. Which terms name something the hardware can be given: an instruction that exists in
this configuration (30_encoding.md R48, 42_matcher.md R78), a source-level operation whose values fit
their fields (R49), a legal RUNSTATE_LEN (00_scope.md R9). -/

namespace Sys2Proof

/-- The instruction exists: ISSUE, CONSUME and MSTAT only when HAS_MATCHER is true (R48). The operand
fields need no check: they are as wide as their values (R49). A receive event may always be delivered
(R80, R103). -/
def Instr.existsIn (hasMatcher : Bool) : Instr → Bool
  | .packid _ _ _ _ => true
  | .unpackid _ => true
  | .errcode _ => true
  | .replyid _ => true
  | .msgtype _ => true
  | .encframe _ _ _ _ _ _ => true
  | .encvc _ _ => true
  | .decvc _ => true
  | .decstat _ => true
  | .deccount _ => true
  | .encrun _ => true
  | .issue _ => hasMatcher
  | .consume => hasMatcher
  | .mstat => hasMatcher
  | .rxframe _ => true

/-- `v` can be carried by a field of `n` bits (R49: a wider value "cannot be presented"). -/
def fitsField (n v : Nat) : Bool := decide (v < 2 ^ n)

/-- A source-level payload is eight bytes (R11, R55). -/
def fitsPayload (p : List Nat) : Bool := p.length == 8 && p.all (fitsField 8)

/-- Every value of the operation fits the field of R49 (or R52) that carries it. -/
def Source.fits : Source → Bool
  | .packid src dst cmd dev => fitsField 8 src && fitsField 8 dst && fitsField 6 cmd && fitsField 4 dev
  | .unpackid id => fitsField 32 id
  | .errcode id => fitsField 32 id
  | .replyid id => fitsField 32 id
  | .msgtype id => fitsField 32 id
  | .encframe src dst cmd dev p len =>
    fitsField 8 src && fitsField 8 dst && fitsField 6 cmd && fitsField 4 dev && fitsPayload p && fitsField 8 len
  | .encvc v c => fitsField 32 v && fitsField 32 c
  | .decvc p => fitsPayload p
  | .decstat p => fitsPayload p
  | .deccount p => fitsPayload p
  | .encrun en => fitsField 1 en
  | .issue id => fitsField 32 id
  | .consume => true
  | .mstat => true
  | .rx id ide dlc data => fitsField 29 id && fitsField 1 ide && fitsField 4 dlc && fitsPayload data

/-- RUNSTATE_LEN is 1 to 8 (R9). -/
def legalRunStateLen (n : BitVec 4) : Bool := decide (1 ≤ n.toNat) && decide (n.toNat ≤ 8)

end Sys2Proof
end

