-- ==== Sys2Proof/Decode.lean ====
section
/-! DEFINITION. The command word of 30_encoding.md R47 and the operation map of R48: decoder, encoder,
and the assembler of R55. -/

namespace Sys2Proof

/-- Bits 7:4 of a command word, reserved (R47). -/
def rsvField (w : Byte) : BitVec 4 := w.extractLsb' 4 4

/-- Bits 3:0 of a command word, the operation code (R47). -/
def opField (w : Byte) : BitVec 4 := w.extractLsb' 0 4

/-- The operation map (R48) with the operand fields each operation reads (R49); codes 0 and F are
reserved (R53). -/
def decodeOp (ops : Operands) (op : BitVec 4) : Option Instr :=
  match op with
  | 0x1#4 => some (.packid ops.src ops.dst ops.cmd ops.dev)
  | 0x2#4 => some (.unpackid ops.id)
  | 0x3#4 => some (.errcode ops.id)
  | 0x4#4 => some (.replyid ops.id)
  | 0x5#4 => some (.msgtype ops.id)
  | 0x6#4 => some (.encframe ops.src ops.dst ops.cmd ops.dev ops.p ops.len)
  | 0x7#4 => some (.encvc ops.v ops.c)
  | 0x8#4 => some (.decvc ops.p)
  | 0x9#4 => some (.decstat ops.p)
  | 0xA#4 => some (.deccount ops.p)
  | 0xB#4 => some (.encrun ops.en)
  | 0xC#4 => some (.issue ops.id)
  | 0xD#4 => some .consume
  | 0xE#4 => some .mstat
  | _ => none

/-- A command word whose RSV field is not 0 names no operation, whatever its OP field (R53, V-X4). -/
def decodeCommand (c : Command) : Option Instr :=
  if rsvField c.word = 0 then decodeOp c.ops (opField c.word) else none

/-- The instruction that a presentation stands for; `none` is a reserved command word. A receive event
has no command word: it is RXFRAME (R48, R52). -/
def decode : Presented → Option Instr
  | .command c => decodeCommand c
  | .receive f => some (.rxframe f)

/-- The presentation of an instruction (R48, R49); the operand fields the operation does not read,
which "may hold any value", are 0. -/
def encode : Instr → Presented
  | .packid src dst cmd dev =>
    .command { word := 0x01#8, ops := { Operands.zero with src := src, dst := dst, cmd := cmd, dev := dev } }
  | .unpackid id => .command { word := 0x02#8, ops := { Operands.zero with id := id } }
  | .errcode id => .command { word := 0x03#8, ops := { Operands.zero with id := id } }
  | .replyid id => .command { word := 0x04#8, ops := { Operands.zero with id := id } }
  | .msgtype id => .command { word := 0x05#8, ops := { Operands.zero with id := id } }
  | .encframe src dst cmd dev p len =>
    .command { word := 0x06#8,
               ops := { Operands.zero with src := src, dst := dst, cmd := cmd, dev := dev, p := p, len := len } }
  | .encvc v c => .command { word := 0x07#8, ops := { Operands.zero with v := v, c := c } }
  | .decvc p => .command { word := 0x08#8, ops := { Operands.zero with p := p } }
  | .decstat p => .command { word := 0x09#8, ops := { Operands.zero with p := p } }
  | .deccount p => .command { word := 0x0A#8, ops := { Operands.zero with p := p } }
  | .encrun en => .command { word := 0x0B#8, ops := { Operands.zero with en := en } }
  | .issue id => .command { word := 0x0C#8, ops := { Operands.zero with id := id } }
  | .consume => .command { word := 0x0D#8, ops := Operands.zero }
  | .mstat => .command { word := 0x0E#8, ops := Operands.zero }
  | .rxframe f => .receive f

/-- The operand fields that the operation with command word `w` reads, by the "read by" column of R49;
the others, which "are ignored and may hold any value", at 0. -/
def Operands.readBy (w : Byte) (o : Operands) : Operands :=
  { src := if w = 0x01#8 ∨ w = 0x06#8 then o.src else 0
    dst := if w = 0x01#8 ∨ w = 0x06#8 then o.dst else 0
    cmd := if w = 0x01#8 ∨ w = 0x06#8 then o.cmd else 0
    dev := if w = 0x01#8 ∨ w = 0x06#8 then o.dev else 0
    id  := if w = 0x02#8 ∨ w = 0x03#8 ∨ w = 0x04#8 ∨ w = 0x05#8 ∨ w = 0x0C#8 then o.id else 0
    v   := if w = 0x07#8 then o.v else 0
    c   := if w = 0x07#8 then o.c else 0
    en  := if w = 0x0B#8 then o.en else false
    p   := if w = 0x06#8 ∨ w = 0x08#8 ∨ w = 0x09#8 ∨ w = 0x0A#8 then o.p else Payload.zero
    len := if w = 0x06#8 then o.len else 0 }

/-- What the ports carry for an instruction of the table whose command word has the bits `w`, operand
fields 0. The table's RXFRAME row has no command word, so no bits: `nbits = 0` is a receive event with
every field 0 (log entry 3). -/
def tablePresented (nbits w : Nat) : Presented :=
  if nbits = 0 then .receive { id := 0, ide := false, dlc := 0, data := Payload.zero }
  else .command { word := BitVec.ofNat 8 w, ops := Operands.zero }

/-- The instruction the decoder reads from a row of spec/opcode_table.json. A command word has 8 bits
(R54): bits above them make no command word. -/
def decodeTableWord (nbits w : Nat) : Option Instr :=
  if w < 2 ^ 8 then decode (tablePresented nbits w) else none

/-- Byte `i` of a source-level payload. -/
def payloadOfList (p : List Nat) : Payload :=
  let b := fun i => BitVec.ofNat 8 (p.getD i 0)
  ⟨b 0, b 1, b 2, b 3, b 4, b 5, b 6, b 7⟩

/-- The instruction a source-level operation names, once its values are known to fit. -/
def Source.toInstr : Source → Instr
  | .packid src dst cmd dev => .packid (.ofNat 8 src) (.ofNat 8 dst) (.ofNat 6 cmd) (.ofNat 4 dev)
  | .unpackid id => .unpackid (.ofNat 32 id)
  | .errcode id => .errcode (.ofNat 32 id)
  | .replyid id => .replyid (.ofNat 32 id)
  | .msgtype id => .msgtype (.ofNat 32 id)
  | .encframe src dst cmd dev p len =>
    .encframe (.ofNat 8 src) (.ofNat 8 dst) (.ofNat 6 cmd) (.ofNat 4 dev) (payloadOfList p) (.ofNat 8 len)
  | .encvc v c => .encvc (.ofNat 32 v) (.ofNat 32 c)
  | .decvc p => .decvc (payloadOfList p)
  | .decstat p => .decstat (payloadOfList p)
  | .deccount p => .deccount (payloadOfList p)
  | .encrun en => .encrun (en == 1)
  | .issue id => .issue (.ofNat 32 id)
  | .consume => .consume
  | .mstat => .mstat
  | .rx id ide dlc data =>
    .rxframe { id := .ofNat 29 id, ide := ide == 1, dlc := .ofNat 4 dlc, data := payloadOfList data }

/-- The assembler of R55. A value wider than its field "cannot be presented and a model must refuse to
build such an operand rather than truncate it" (R49): `none`. -/
def assemble (x : Source) : Option Presented :=
  if x.fits then some (encode x.toInstr) else none

end Sys2Proof
end

