-- ==== Sys2Proof/Machine/Fetch.lean ====
section
/-! DEFINITION. What the block is given at this step. It fetches no instruction (10_state.md R16,
20_memory.md R39): the host presents, and each presentation is one step (00_scope.md R13). -/

namespace Sys2Proof.Machine

/-- What is given at a step, with the state once it has been taken from the port. -/
inductive Fetched where
  | nothing
  | reset (d : ResetDraw) (s : State)
  | present (p : Presented) (s : State)
deriving DecidableEq, Repr

/-- Take the first presentation. Of an operation and a frame at the same time, one is taken and the
other is left for the next step (60_exceptions.md R98). -/
def fetch (s : State) : Fetched :=
  match s.inputs with
  | [] => .nothing
  | .command c :: rest => .present (.command c) { s with inputs := rest }
  | .receive f :: rest => .present (.receive f) { s with inputs := rest }
  | .simultaneous c f receiveFirst :: rest =>
    if receiveFirst then .present (.receive f) { s with inputs := .command c :: rest }
    else .present (.command c) { s with inputs := .receive f :: rest }
  | .reset d :: rest => .reset d { s with inputs := rest }

/-- A presentation as the next input. -/
def inputOf : Presented → Input
  | .command c => .command c
  | .receive f => .receive f

/-- Perform what was presented: a reserved command word names no operation and answers ILLEGAL
(60_exceptions.md R91). `run` is the meaning of an instruction. -/
def performWith (run : Instr → State → Host.Outcome State Fault Refusal) (p : Presented) (s : State) :
    Host.Outcome State Fault Refusal :=
  match decode p with
  | some i => run i s
  | none => .next s.answerIllegal

end Sys2Proof.Machine
end

