-- ==== Sys2Proof/Machine/Step.lean ====
section
/-! DEFINITION. One step of the block: a reset, an operation or a receive event (00_scope.md R13,
70_reset_and_hazards.md R104). -/

namespace Sys2Proof.Machine

/-- One step. When nothing is presented nothing happens (log entry 6). -/
def step (s : State) : Host.Outcome State Fault Refusal :=
  match fetch s with
  | .nothing => .next s
  | .reset d s' => .next (s'.takeReset d)
  | .present p s' => performWith exec p s'

/-- `s` with a table row's instruction presented next, ahead of whatever was presented already
(log entry 3). -/
def State.withFetchWord (s : State) (nbits w : Nat) : State :=
  { s with inputs := inputOf (tablePresented nbits w) :: s.inputs }

end Sys2Proof.Machine
end

