-- ==== Sys2Proof/Machine/HostProc.lean ====
section
/-! DEFINITION. The host's side of the block: its moves (30_encoding.md R55), and the pseudo-operation
DISPATCH (R56), the procedure of 60_exceptions.md R102, written over `step`. The locks of R102 steps 1
and 7, the transmission itself and the clock are the host's and out of scope (00_scope.md R5). -/

namespace Sys2Proof.Machine

/-- `n` steps of the block. -/
def run (n : Nat) (s : State) : Host.Outcome State Fault Refusal := Sys2Proof.core.run n s

/-- The steps the block takes for one input: two for an operation and a frame at the same time, which it
"performs one after the other" (60_exceptions.md R98). -/
def Input.steps : Input → Nat
  | .command _ => 1
  | .receive _ => 1
  | .simultaneous _ _ _ => 2
  | .reset _ => 1

/-- Present one input, ahead of whatever is presented later, and let the block perform all of it. -/
def perform (x : Input) (s : State) : State :=
  match run x.steps { s with inputs := x :: s.inputs } with
  | .next t => t
  | .fault _ => s
  | .refused _ => s

/-- Present inputs one after the other. -/
def performAll (xs : List Input) (s : State) : State := xs.foldl (fun t x => perform x t) s

/-- An instruction of the table as an input. -/
def instrInput (i : Instr) : Input := inputOf (encode i)

/-- A move of the host: a presentation to the block, or an action that "is not a block step" (R55). -/
inductive HostMove where
  | present (x : Input)
  /-- Transmit the request frame with this identifier (R102 step 3). -/
  | send (id : Ident)
  /-- The wait of R102 step 4 expires after TIMEOUT_MS. -/
  | timeout
deriving DecidableEq, Repr

/-- The block after a move; sending and a timeout touch no register (42_matcher.md R88, R100). -/
def hostStep (s : State) (x : HostMove) : State :=
  match x with
  | .present x => perform x s
  | .send _ => s
  | .timeout => s

/-- The block after a sequence of moves. -/
def hostRun (s : State) (xs : List HostMove) : State := xs.foldl hostStep s

/-- How a dispatch ends (60_exceptions.md R96, R102 steps 5 and 6). -/
inductive DispatchOutcome where
  | success (rp : Payload) (rlen : BitVec 4) (err : BitVec 3) (known : Bool)
  | timeout
  /-- `DispatchFailed`, "reserved outcome for a failed-state transition" (R96). -/
  | failed
deriving DecidableEq, Repr

/-- What the host makes of the answer to its CONSUME (R102 step 6). R102 presents CONSUME only at `cmpl` 1,
where the answer is OK; for another answer the spec gives no outcome, and the model takes `failed` (log
entry 10). -/
def outcomeOfAnswer (r : Response) : DispatchOutcome :=
  match r with
  | .result r =>
    match r.st with
    | .ok => .success r.rp r.rlen r.err r.known
    | .illegal => .failed
    | .notReady => .failed
  | .matched _ => .failed

/-- The block at the end of the host's wait: the request issued, then what is presented during the wait
(R102 steps 2 to 4): the frames that arrive, polls by MSTAT, any other operation, in their order. -/
def awaitReply (id : Word) (during : List Input) (s : State) : State :=
  performAll during (perform (instrInput (.issue id)) s)

/-- `STATE` is Failed, the state behind `DispatchFailed` (60_exceptions.md R96). -/
def State.hasFailed (s : State) : Bool :=
  match s.matcher with
  | none => false
  | some m => m.state == .failed

/-- `DISPATCH id=<X>` (R56): ISSUE, the wait, then CONSUME if `cmpl` is 1, nothing if it is not. Log
entry 10. -/
def dispatch (id : Word) (during : List Input) (s : State) : State × DispatchOutcome :=
  let t := awaitReply id during s
  if t.cmpl then
    let u := perform (instrInput .consume) t
    (u, outcomeOfAnswer u.response)
  else (t, if t.hasFailed then .failed else .timeout)

/-- The moves the host makes in a dispatch (R102). -/
def dispatchMoves (id : Word) (during : List Input) (s : State) : List HostMove :=
  .present (instrInput (.issue id)) :: .send (readIdent id) :: during.map .present ++
    [if (awaitReply id during s).cmpl then .present (instrInput .consume) else .timeout]

end Sys2Proof.Machine
end

