-- ==== Sys2Proof/Machine/HostDuties.lean ====
section
/-! DEFINITION. The host duties that are about the order of its moves (60_exceptions.md R103;
70_reset_and_hazards.md R107, R108): premises of a claim about a dispatch. A run that breaks one is still
a run of the model. Log entry 10. -/

namespace Sys2Proof.Machine

/-- The command an input presents, alone or beside a frame. -/
def Input.command? : Input → Option Command
  | .command c => some c
  | .receive _ => none
  | .simultaneous c _ _ => some c
  | .reset _ => none

/-- The frame an input delivers, alone or beside an operation. -/
def Input.frame? : Input → Option Frame
  | .command _ => none
  | .receive f => some f
  | .simultaneous _ f _ => some f
  | .reset _ => none

/-- What may be presented during the wait of a dispatch: "no other ISSUE and no CONSUME"
(42_matcher.md R87), and no reset. -/
def Input.duringWait (x : Input) : Bool :=
  match x with
  | .command c => c.word != 0x0C#8 && c.word != 0x0D#8
  | .receive _ => true
  | .simultaneous c _ _ => c.word != 0x0C#8 && c.word != 0x0D#8
  | .reset _ => false

/-- The request identifier of an ISSUE that a move presents. -/
def HostMove.issued : HostMove → Option Ident
  | .present x => x.command?.bind fun c => if c.word = 0x0C#8 then some (readIdent c.ops.id) else none
  | .send _ => none
  | .timeout => none

/-- The move presents CONSUME. -/
def HostMove.consumes : HostMove → Bool
  | .present x => x.command?.any fun c => c.word == 0x0D#8
  | .send _ => false
  | .timeout => false

/-- The block as the operation of an input finds it: with the frame presented beside it taken, if that
goes first (60_exceptions.md R98). -/
def State.atOperation (s : State) : Input → State
  | .command _ => s
  | .receive _ => s
  | .simultaneous _ f receiveFirst => if receiveFirst then perform (.receive f) s else s
  | .reset _ => s

/-- The move ends a dispatch: a CONSUME that finds `cmpl` 1, or the timeout (70_reset_and_hazards.md
R108). -/
def HostMove.ends (x : HostMove) (s : State) : Bool :=
  match x with
  | .present y => x.consumes && (s.atOperation y).cmpl
  | .send _ => false
  | .timeout => true

/-- "At most one dispatch may be in flight": no ISSUE until the dispatch before it has ended
(70_reset_and_hazards.md R108). `busy`: one is in flight. -/
def singleFlight (busy : Bool) (s : State) : List HostMove → Bool
  | [] => true
  | x :: xs =>
    !(busy && x.issued.isSome) && singleFlight ((busy || x.issued.isSome) && !x.ends s) (hostStep s x) xs

/-- "ISSUE must precede the transmission of the request frame" (70_reset_and_hazards.md R107).
`armed`: the request issued and not yet sent. DESIGN CHOICE, where R107 is silent: one ISSUE covers one
transmission, so a second needs an ISSUE of its own; a later ISSUE takes the place of one not yet sent;
anything else between ISSUE and the transmission leaves the request issued: a CONSUME, also one that takes
a reply and so ends the dispatch, a frame that completes it, a reset, a timeout, any other operation; and
an ISSUE that is answered ILLEGAL, without the matcher, counts as one. Log entry 10. -/
def issueFirst (armed : Option Ident) : List HostMove → Bool
  | [] => true
  | .send id :: xs => armed == some id && issueFirst none xs
  | .present x :: xs => issueFirst ((HostMove.present x).issued.or armed) xs
  | .timeout :: xs => issueFirst armed xs

/-- The input of a move; an action of the host that is no block step has none. -/
def HostMove.input? : HostMove → Option Input
  | .present x => some x
  | .send _ => none
  | .timeout => none

end Sys2Proof.Machine
end

