-- ==== Sys2Proof/Safety.lean ====
section
/-! DEFINITION. What claims are stated in terms of: the invariant of the machine and the premise "no
ILLEGAL response" (93_implementation_defined.md). The host duties are in Machine/HostDuties.lean. -/

namespace Sys2Proof.Machine

/-- What holds of the matcher's registers after reset and every step: `EXP_MT = EXP_ID[25:0]`
(10_state.md R21), and `STATE` is never Failed (R20). -/
structure Matcher.Sound (m : Matcher) : Prop where
  mt : m.expMt = msgType m.expId
  reachable : m.state ≠ .failed

/-- What holds of the result fields: identifier bits 31:29 and message-type bits 31:26 are 0, an
operation that does not end OK drives every other field to 0 (30_encoding.md R51), and `out.MST` is
never 3 (42_matcher.md R85). -/
structure Result.Sound (r : Result) : Prop where
  id : r.id.toNat < 2 ^ 29
  mt : r.mt.toNat < 2 ^ 26
  quiet : r.st ≠ .ok → r = { Result.zero with st := r.st }
  mst : r.mst ≠ 3

/-- The invariant of the machine. A matched receive event leaves `cmpl` 1 (60_exceptions.md R97). -/
structure State.Inv (s : State) : Prop where
  matcher : ∀ m, s.matcher = some m → m.Sound
  response : ∀ r, s.response = .result r → r.Sound
  matched : s.response = .matched true → s.cmpl = true
  runStateLen : legalRunStateLen s.runStateLen = true

/-- The last step answered an operation with ILLEGAL. -/
def State.answeredIllegal (s : State) : Bool :=
  match s.response with
  | .result r => r.st == .illegal
  | .matched _ => false

/-- The command words that name an operation (30_encoding.md R48, R53). -/
def legalWord (hasMatcher : Bool) (w : Byte) : Bool :=
  (decide (1 ≤ w.toNat) && decide (w.toNat ≤ 11)) || (hasMatcher && decide (12 ≤ w.toNat) && decide (w.toNat ≤ 14))

/-- The input presents no reserved word: the premise of a claim about a host program
(93_implementation_defined.md, reserved command words). -/
def Input.legal (hasMatcher : Bool) (x : Input) : Bool :=
  match x.command? with
  | none => true
  | some c => legalWord hasMatcher c.word

end Sys2Proof.Machine
end

