-- ==== Sys2Proof/Certificates/Slice0/Obligations.lean ====
section
/-! DEFINITION. The statements for the provers. Values are given as numbers or bytes, not through the
operations the meanings use. `{ s with … }` in a conclusion says that everything else of the state is as
it was. -/

open Sys2Proof Sys2Proof.Machine

/-! ### Reset and the step -/

/-- 70_reset_and_hazards.md R104: the reset step, for every draw, in a machine with or without the
matcher; what was presented after it is still to come. -/
def Obligations.ResetStepLoadsTheDraws : Prop :=
  ∀ (s : State) (d : ResetDraw) (rest : List Input), s.inputs = .reset d :: rest →
    ∃ t, step s = .next t ∧ t.cmpl = false ∧
      t = { s with
        inputs := rest
        response := .result Result.zero
        matcher := s.matcher.map fun _ =>
          { state := .idle, expId := d.expId, expMt := BitVec.ofNat 26 d.expId.toNat, resp := d.resp,
            respLen := d.respLen, respErr := d.respErr } }

/-- The state after reset meets the invariant, with `cmpl` 0 and nothing presented. The values of the
draws and of the open parameters in it are the model's choice (log entries 1, 2, 3). -/
def Obligations.ResetStateMeetsTheInvariant : Prop :=
  State.reset.Inv ∧ State.reset.cmpl = false ∧ State.reset.inputs = [] ∧ State.reset.hasMatcher = true

/-- A step runs the decoded instruction (00_scope.md R13, 42_matcher.md R80): what is first is taken and
performed; of an operation and a frame at the same time the one the order names is performed and the
other is left for the next step (60_exceptions.md R98). With nothing presented nothing changes (the
model's convention, log entry 6). -/
def Obligations.StepRunsTheDecodedInstruction : Prop :=
  ∀ (s : State) (rest : List Input),
    (∀ p i, decode p = some i → s.inputs = inputOf p :: rest → step s = exec i { s with inputs := rest }) ∧
    (∀ c f i, decode (.command c) = some i → s.inputs = .simultaneous c f false :: rest →
      step s = exec i { s with inputs := .receive f :: rest }) ∧
    (∀ c f, s.inputs = .simultaneous c f true :: rest →
      step s = exec (.rxframe f) { s with inputs := .command c :: rest }) ∧
    (s.inputs = [] → step s = .next s)

/-- 60_exceptions.md R91: ILLEGAL answers exactly the command words that name no operation, whatever the
operand fields hold, and then nothing else changes. -/
def Obligations.IllegalAnswersExactlyReservedWords : Prop :=
  ∀ (s : State) (c : Command) (rest : List Input), s.inputs = .command c :: rest →
    ∃ t, step s = .next t ∧
      (t.answeredIllegal = true ↔
        c.word.toNat = 0 ∨ c.word.toNat = 15 ∨ 16 ≤ c.word.toNat ∨
          (s.matcher = none ∧ 12 ≤ c.word.toNat ∧ c.word.toNat ≤ 14)) ∧
      (t.answeredIllegal = true →
        t = { s with inputs := rest, response := .result { Result.zero with st := .illegal } } ∧ t.cmpl = s.cmpl)

/-- 60_exceptions.md R98: an operation and a frame at the same time are performed one after the other,
and both orders are admitted; ISSUE with a reply to it gives Completed if the frame is taken after ISSUE
and Issued if before. -/
def Obligations.SimultaneousPresentationAdmitsBothOrders : Prop :=
  (∀ (s : State) (c : Command) (f : Frame) (rest : List Input),
    run 2 { s with inputs := .simultaneous c f true :: rest } =
      run 2 { s with inputs := .receive f :: .command c :: rest } ∧
    run 2 { s with inputs := .simultaneous c f false :: rest } =
      run 2 { s with inputs := .command c :: .receive f :: rest }) ∧
  (∀ (s : State) (m : Matcher) (o : Operands) (f : Frame) (rest : List Input) (receiveFirst : Bool),
    s.matcher = some m → f.ide = true →
    msgType f.id = msgType (reply (readIdent o.id)) →
    ∃ t m', run 2 { s with inputs := .simultaneous { word := 0x0C#8, ops := o } f receiveFirst :: rest } = .next t ∧
      t.matcher = some m' ∧ t.inputs = rest ∧
      (receiveFirst = false → m'.state = .completed) ∧ (receiveFirst = true → m'.state = .issued))

/-- 60_exceptions.md R93: every instruction completes; an operation ends ILLEGAL exactly when it does not
exist in the machine, NOTREADY exactly when it is CONSUME and `STATE` is not Completed, OK otherwise, and
the code 3 is never driven. -/
def Obligations.EveryOtherOperationEndsOk : Prop :=
  ∀ (i : Instr) (s : State), ∃ t, exec i s = .next t ∧
    ((∃ f, i = .rxframe f) ∨ ∃ r, t.response = .result r) ∧
    ∀ r, t.response = .result r →
      r.st.code ≠ 3 ∧
      (r.st = .illegal ↔ i.existsIn s.hasMatcher = false) ∧
      (r.st = .notReady ↔ i = .consume ∧ ∃ m, s.matcher = some m ∧ m.state ≠ .completed)

/-! ### Identifier and frame operations -/

/-- 40_identifier.md R57. -/
def Obligations.PackidPacksTheFields : Prop :=
  ∀ (src dst : Byte) (cmd : BitVec 6) (dev : BitVec 4) (s : State), ∃ w : Word,
    exec (.packid src dst cmd dev) s =
      .next { s with response := .result { Result.zero with id := w, ide := true } } ∧
    w.toNat = dev.toNat * 2 ^ 22 + cmd.toNat * 2 ^ 16 + dst.toNat * 2 ^ 8 + src.toNat

/-- 40_identifier.md R58. -/
def Obligations.UnpackidSplitsTheIdentifier : Prop :=
  ∀ (id : Word) (s : State), ∃ (e : BitVec 3) (dev : BitVec 4) (cmd : BitVec 6) (dst src : Byte),
    exec (.unpackid id) s =
      .next { s with
        response := .result { Result.zero with err := e, dev := dev, cmd := cmd, dst := dst, src := src } } ∧
    id.toNat % 2 ^ 29 =
      e.toNat * 2 ^ 26 + dev.toNat * 2 ^ 22 + cmd.toNat * 2 ^ 16 + dst.toNat * 2 ^ 8 + src.toNat

/-- 40_identifier.md R59. -/
def Obligations.ErrcodeClassifiesTheCode : Prop :=
  ∀ (id : Word) (s : State), ∃ (e : BitVec 3) (k : Bool),
    exec (.errcode id) s = .next { s with response := .result { Result.zero with err := e, known := k } } ∧
    e.toNat = id.toNat / 2 ^ 26 % 8 ∧
    (k = true ↔ e.toNat = 0 ∨ e.toNat = 2 ∨ e.toNat = 3 ∨ e.toNat = 7)

/-- 40_identifier.md R60. -/
def Obligations.ReplyidSwapsSourceAndDestination : Prop :=
  ∀ (id : Word) (s : State), ∃ w : Word,
    exec (.replyid id) s = .next { s with response := .result { Result.zero with id := w } } ∧
    w.toNat = id.toNat / 2 ^ 16 % 2 ^ 13 * 2 ^ 16 + id.toNat % 2 ^ 8 * 2 ^ 8 + id.toNat / 2 ^ 8 % 2 ^ 8

/-- 40_identifier.md R61. -/
def Obligations.MsgtypeMasksTheErrorCode : Prop :=
  ∀ (id : Word) (s : State), ∃ w : Word,
    exec (.msgtype id) s = .next { s with response := .result { Result.zero with mt := w } } ∧
    w.toNat = id.toNat % 2 ^ 26

/-- 40_identifier.md R62. -/
def Obligations.EncframeBuildsTheFrame : Prop :=
  ∀ (src dst : Byte) (cmd : BitVec 6) (dev : BitVec 4) (p : Payload) (len : Byte) (s : State),
    ∃ (w : Word) (n : BitVec 4) (q : Payload),
      exec (.encframe src dst cmd dev p len) s =
        .next { s with response := .result { Result.zero with id := w, ide := true, rlen := n, rp := q } } ∧
      w.toNat = dev.toNat * 2 ^ 22 + cmd.toNat * 2 ^ 16 + dst.toNat * 2 ^ 8 + src.toNat ∧
      n.toNat = min len.toNat 8 ∧
      ∀ i : Fin 8, payloadByte q i = if i.val < min len.toNat 8 then payloadByte p i else 0

/-- 40_identifier.md R63 and R64: unpacking what was packed gives the fields back with error code 0, and
packing what was unpacked gives the identifier back with the error code cleared. -/
def Obligations.PackAndUnpackAreInverse : Prop :=
  (∀ (src dst : Byte) (cmd : BitVec 6) (dev : BitVec 4) (s : State), ∃ t r u q,
    exec (.packid src dst cmd dev) s = .next t ∧ t.response = .result r ∧
    exec (.unpackid r.id) t = .next u ∧ u.response = .result q ∧
    q.err = 0 ∧ q.dev = dev ∧ q.cmd = cmd ∧ q.dst = dst ∧ q.src = src) ∧
  (∀ (id : Word) (s : State), ∃ t r u q,
    exec (.unpackid id) s = .next t ∧ t.response = .result r ∧
    exec (.packid r.src r.dst r.cmd r.dev) t = .next u ∧ u.response = .result q ∧
    q.id.toNat = id.toNat % 2 ^ 26 ∧ (r.err = 0 → q.id.toNat = id.toNat % 2 ^ 29))

/-- 40_identifier.md R65: the reply has the two addresses exchanged and the other fields kept, and the
reply to the reply is the identifier, bits 28:0. -/
def Obligations.ReplyOfReplyIsTheIdentifier : Prop :=
  ∀ (id : Word) (s : State), ∃ t r u q v a w b,
    exec (.replyid id) s = .next t ∧ t.response = .result r ∧
    exec (.replyid r.id) t = .next u ∧ u.response = .result q ∧ q.id.toNat = id.toNat % 2 ^ 29 ∧
    exec (.unpackid id) s = .next v ∧ v.response = .result a ∧
    exec (.unpackid r.id) s = .next w ∧ w.response = .result b ∧
    b.dst = a.src ∧ b.src = a.dst ∧ b.err = a.err ∧ b.dev = a.dev ∧ b.cmd = a.cmd

/-- 40_identifier.md R66: identifiers that differ only in bits 28:26 (and in the ignored bits 31:29)
have one message-type, and the message-type of the reply is the reply with bits 28:26 cleared. -/
def Obligations.MessageTypeIgnoresTheErrorCode : Prop :=
  (∀ (a b : Word) (s : State), a.toNat % 2 ^ 26 = b.toNat % 2 ^ 26 → exec (.msgtype a) s = exec (.msgtype b) s) ∧
  (∀ (a : Word) (s : State), ∃ t r u q,
    exec (.replyid a) s = .next t ∧ t.response = .result r ∧
    exec (.msgtype r.id) t = .next u ∧ u.response = .result q ∧ q.mt.toNat = r.id.toNat % 2 ^ 26)

/-- 40_identifier.md R67. -/
def Obligations.EncframeIdentifierIsPackids : Prop :=
  ∀ (src dst : Byte) (cmd : BitVec 6) (dev : BitVec 4) (p : Payload) (len : Byte) (s : State), ∃ t r u q,
    exec (.encframe src dst cmd dev p len) s = .next t ∧ t.response = .result r ∧
    exec (.packid src dst cmd dev) s = .next u ∧ u.response = .result q ∧
    r.id = q.id ∧ r.ide = q.ide ∧ r.rlen.toNat ≤ 8

/-! ### Payload operations -/

/-- 41_payload.md R69: `v` in bytes 0 to 3 and `c` in bytes 4 to 7, most significant byte first. -/
def Obligations.EncvcWritesBigEndianFields : Prop :=
  ∀ (v c : Word) (s : State), ∃ q : Payload,
    exec (.encvc v c) s = .next { s with response := .result { Result.zero with rp := q, rlen := 8 } } ∧
    v.toNat = q.b0.toNat * 2 ^ 24 + q.b1.toNat * 2 ^ 16 + q.b2.toNat * 2 ^ 8 + q.b3.toNat ∧
    c.toNat = q.b4.toNat * 2 ^ 24 + q.b5.toNat * 2 ^ 16 + q.b6.toNat * 2 ^ 8 + q.b7.toNat

/-- 41_payload.md R70: the voltage is the high word (bytes 0 to 3), the current the low word. -/
def Obligations.DecvcReadsVoltageHighCurrentLow : Prop :=
  ∀ (p : Payload) (s : State), ∃ cur volt : Word,
    exec (.decvc p) s = .next { s with response := .result { Result.zero with cur := cur, volt := volt } } ∧
    volt.toNat = p.b0.toNat * 2 ^ 24 + p.b1.toNat * 2 ^ 16 + p.b2.toNat * 2 ^ 8 + p.b3.toNat ∧
    cur.toNat = p.b4.toNat * 2 ^ 24 + p.b5.toNat * 2 ^ 16 + p.b6.toNat * 2 ^ 8 + p.b7.toNat

/-- 41_payload.md R72: group byte 2, temperature byte 4, status2 byte 5, status0 byte 6, status1 byte 7. -/
def Obligations.DecstatKeepsTheInterleaving : Prop :=
  ∀ (p : Payload) (s : State),
    exec (.decstat p) s = .next { s with
      response := .result { Result.zero with group := p.b2, temp := p.b4, s2 := p.b5, s0 := p.b6, s1 := p.b7 } }

/-- 41_payload.md R74. -/
def Obligations.DeccountReadsByteTwo : Prop :=
  ∀ (p : Payload) (s : State),
    exec (.deccount p) s = .next { s with response := .result { Result.zero with count := p.b2 } }

/-- 41_payload.md R75, for every RUNSTATE_LEN: byte 0 is the inverse of the boolean, the others 0. -/
def Obligations.EncrunIsInverted : Prop :=
  ∀ (en : Bool) (s : State), ∃ q : Payload,
    exec (.encrun en) s =
      .next { s with response := .result { Result.zero with rp := q, rlen := s.runStateLen } } ∧
    q.b0.toNat + en.toNat = 1 ∧ ∀ i : Fin 8, i ≠ 0 → payloadByte q i = 0

/-- 41_payload.md R76. -/
def Obligations.VoltageCurrentRoundTripIsExact : Prop :=
  ∀ (v c : Word) (s : State), ∃ t r u q,
    exec (.encvc v c) s = .next t ∧ t.response = .result r ∧
    exec (.decvc r.rp) t = .next u ∧ u.response = .result q ∧ q.volt = v ∧ q.cur = c

/-- 41_payload.md R77: for every payload, and both are bits 47:40 of the 64-bit view. -/
def Obligations.CountIsTheGroupByte : Prop :=
  ∀ (p : Payload) (s : State), ∃ t r u q,
    exec (.deccount p) s = .next t ∧ t.response = .result r ∧
    exec (.decstat p) s = .next u ∧ u.response = .result q ∧
    r.count = q.group ∧ r.count.toNat = (be64 p).toNat / 2 ^ 40 % 2 ^ 8

/-- 20_memory.md R30: the 32-bit fields and the bytes of a payload are fields of its 64-bit view. -/
def Obligations.WordAndByteFieldsAgreeWithTheView : Prop :=
  ∀ (p : Payload),
    (be64 p).extractLsb' 32 32 = be32 p.b0 p.b1 p.b2 p.b3 ∧
    (be64 p).extractLsb' 0 32 = be32 p.b4 p.b5 p.b6 p.b7 ∧
    ∀ i : Fin 8, (be64 p).extractLsb' (8 * (7 - i.val)) 8 = payloadByte p i

/-- 41_payload.md R73: condition `k` of a status byte is its bit `k`, on the bytes DECSTAT gives. -/
def Obligations.StatusConditionIsTheBit : Prop :=
  ∀ (p : Payload) (s : State) (k : Fin 8), ∃ t r,
    exec (.decstat p) s = .next t ∧ t.response = .result r ∧
    (statusCondition r.s0 k = true ↔ p.b6.toNat / 2 ^ k.val % 2 = 1) ∧
    (statusCondition r.s1 k = true ↔ p.b7.toNat / 2 ^ k.val % 2 = 1) ∧
    (statusCondition r.s2 k = true ↔ p.b5.toNat / 2 ^ k.val % 2 = 1)

/-- 10_state.md R14: a codec operation is a function of its operands alone, whatever the matcher holds
and the ports show (the length ENCRUN reports is the machine's parameter), and holds no state. -/
def Obligations.CodecIsAFunctionOfItsOperands : Prop :=
  ∀ (i : Instr) (s s' : State), i.existsIn false = true → (∀ f, i ≠ .rxframe f) → s.runStateLen = s'.runStateLen →
    ∃ r, r.st = .ok ∧ exec i s = .next { s with response := .result r } ∧
      exec i s' = .next { s' with response := .result r }

/-! ### The frame matcher -/

/-- 42_matcher.md R79: in every state of the matcher. -/
def Obligations.IssueArmsTheMatcher : Prop :=
  ∀ (id : Word) (s : State) (m : Matcher), s.matcher = some m → ∃ (e : Ident) (mt : MsgType),
    exec (.issue id) s = .next { s with
      matcher := some { m with expId := e, expMt := mt, state := .issued }, response := .result Result.zero } ∧
    e.toNat = id.toNat / 2 ^ 16 % 2 ^ 13 * 2 ^ 16 + id.toNat % 2 ^ 8 * 2 ^ 8 + id.toNat / 2 ^ 8 % 2 ^ 8 ∧
    mt.toNat = e.toNat % 2 ^ 26

/-- 42_matcher.md R81: when a frame matches, in each of the four states, and what it writes. -/
def Obligations.RxframeCapturesWhatMatches : Prop :=
  ∀ (f : Frame) (s : State) (m : Matcher), s.matcher = some m →
    ((f.ide = true ∧ ((m.state = .issued ∧ f.id.toNat % 2 ^ 26 = m.expMt.toNat) ∨ (m.state ≠ .issued ∧ f.id = m.expId))) →
      ∃ e : BitVec 3, e.toNat = f.id.toNat / 2 ^ 26 ∧
        exec (.rxframe f) s = .next { s with
          matcher := some { m with resp := f.data, respLen := f.dlc, respErr := e, state := .completed },
          response := .matched true }) ∧
    (¬ (f.ide = true ∧ ((m.state = .issued ∧ f.id.toNat % 2 ^ 26 = m.expMt.toNat) ∨ (m.state ≠ .issued ∧ f.id = m.expId))) →
      exec (.rxframe f) s = .next { s with response := .matched false })

/-- 42_matcher.md R83: a receive event that does not match changes no register and leaves `cmpl`. -/
def Obligations.UnmatchedFrameChangesNothing : Prop :=
  ∀ (f : Frame) (s : State), ∃ t b, exec (.rxframe f) s = .next t ∧ t.response = .matched b ∧
    (b = false → t = { s with response := .matched false } ∧ t.cmpl = s.cmpl)

/-- 42_matcher.md R84: in Completed the reply is taken, in every other state NOTREADY and no change. -/
def Obligations.ConsumeTakesTheReply : Prop :=
  ∀ (s : State) (m : Matcher), s.matcher = some m →
    (m.state = .completed → ∃ k : Bool,
      exec .consume s = .next { s with
        matcher := some { m with state := .idle },
        response := .result { Result.zero with rp := m.resp, rlen := m.respLen, err := m.respErr, known := k } } ∧
      (k = true ↔ m.respErr.toNat = 0 ∨ m.respErr.toNat = 2 ∨ m.respErr.toNat = 3 ∨ m.respErr.toNat = 7)) ∧
    (m.state ≠ .completed →
      exec .consume s = .next { s with response := .result { Result.zero with st := .notReady } })

/-- 42_matcher.md R85, with the codes of 10_state.md R19 on `out.MST`. -/
def Obligations.MstatReadsTheRegisters : Prop :=
  ∀ (s : State) (m : Matcher), s.matcher = some m → ∃ (c : BitVec 2) (w mt : Word),
    exec .mstat s = .next { s with
      response := .result { Result.zero with mst := c, id := w, mt := mt, rp := m.resp, rlen := m.respLen, err := m.respErr } } ∧
    w.toNat = m.expId.toNat ∧ mt.toNat = m.expMt.toNat ∧
    (m.state = .idle → c.toNat = 0) ∧ (m.state = .issued → c.toNat = 1) ∧
    (m.state = .completed → c.toNat = 2) ∧ (m.state = .failed → c.toNat = 3)

/-- 42_matcher.md R78: without the matcher, ISSUE, CONSUME and MSTAT are illegal, every receive event is
ignored and `cmpl` is 0. -/
def Obligations.WithoutTheMatcherItsOperationsAreIllegal : Prop :=
  ∀ (s : State), s.matcher = none →
    (∀ i, i.existsIn false = false →
      exec i s = .next { s with response := .result { Result.zero with st := .illegal } }) ∧
    (∀ f, exec (.rxframe f) s = .next { s with response := .matched false }) ∧
    s.cmpl = false

/-- 42_matcher.md R86: the transition table, column by column. -/
def Obligations.TransitionTableHolds : Prop :=
  ∀ (s : State) (m : Matcher), s.matcher = some m → m.expMt = msgType m.expId →
    (∀ id, ∃ t m', exec (.issue id) s = .next t ∧ t.matcher = some m' ∧ m'.state = .issued) ∧
    (∀ f, ∃ t m', exec (.rxframe f) s = .next t ∧ t.matcher = some m' ∧
      ((f.ide = true ∧ f.id = m.expId) → m'.state = .completed ∧ m'.resp = f.data) ∧
      ((m.state = .issued ∧ f.ide = true ∧ f.id.toNat % 2 ^ 26 = m.expMt.toNat) → m'.state = .completed ∧ m'.resp = f.data) ∧
      ((¬ (f.ide = true ∧ f.id = m.expId) ∧ ¬ (m.state = .issued ∧ f.ide = true ∧ f.id.toNat % 2 ^ 26 = m.expMt.toNat)) →
        m' = m)) ∧
    (∃ t m' r, exec .consume s = .next t ∧ t.matcher = some m' ∧ t.response = .result r ∧
      (m.state = .completed → m'.state = .idle ∧ r.st = .ok) ∧ (m.state ≠ .completed → m' = m ∧ r.st = .notReady)) ∧
    (∃ t, exec .mstat s = .next t ∧ t.matcher = some m)

/-- 10_state.md R22 and 60_exceptions.md R97: `cmpl` is 1 exactly when `STATE` is Completed; over the
instructions it rises exactly at a matching receive event and falls exactly at a successful CONSUME or an
ISSUE. -/
def Obligations.CmplRisesOnMatchAndFallsOnConsumeOrIssue : Prop :=
  ∀ (i : Instr) (s : State),
    (s.cmpl = true ↔ ∃ m, s.matcher = some m ∧ m.state = .completed) ∧
    ∃ t, exec i s = .next t ∧
      (t.response = .matched true → t.cmpl = true) ∧
      (s.cmpl = false → t.cmpl = true → t.response = .matched true ∧ ∃ f, i = .rxframe f) ∧
      (s.cmpl = true → t.cmpl = false → (∃ id, i = .issue id) ∨ (i = .consume ∧ ∃ r, t.response = .result r ∧ r.st = .ok)) ∧
      (i = .consume → t.cmpl = false) ∧ (∀ id, i = .issue id → t.cmpl = false)

/-- 20_memory.md R35: only ISSUE, a successful CONSUME and a matching receive event change state; every
codec operation and MSTAT, presented twice, gives the same result; ISSUE twice writes the same values;
a second CONSUME is NOTREADY. -/
def Obligations.OnlyThreeStepsChangeState : Prop :=
  ∀ (i : Instr) (s : State), ∃ t u, exec i s = .next t ∧ exec i t = .next u ∧
    (t.matcher ≠ s.matcher → (∃ id, i = .issue id) ∨ (i = .consume ∧ s.cmpl = true) ∨ t.response = .matched true) ∧
    (i ≠ .consume → (∀ f, i ≠ .rxframe f) → u = t) ∧
    (i = .consume → s.cmpl = true → u = { t with response := .result { Result.zero with st := .notReady } })

/-- 10_state.md R24: the captured reply stays until the next match overwrites it; and only ISSUE writes
the expectation. Over every instruction. -/
def Obligations.CapturedReplyStaysUntilTheNextMatch : Prop :=
  ∀ (i : Instr) (s : State) (m : Matcher), s.matcher = some m → ∃ t m', exec i s = .next t ∧ t.matcher = some m' ∧
    (t.response ≠ .matched true → m'.resp = m.resp ∧ m'.respLen = m.respLen ∧ m'.respErr = m.respErr) ∧
    (t.response = .matched true → ∃ f, i = .rxframe f ∧ m'.resp = f.data ∧ m'.respLen = f.dlc ∧
      m'.respErr.toNat = f.id.toNat / 2 ^ 26) ∧
    ((∀ id, i ≠ .issue id) → m'.expId = m.expId ∧ m'.expMt = m.expMt)

/-- What the captured reply is does not decide anything: two machines that differ only in it answer every
instruction but CONSUME and MSTAT alike, and go on with the same `STATE` and expectation
(42_matcher.md R79, R81, R84). -/
def Obligations.CapturedReplyDoesNotSteerTheMatcher : Prop :=
  ∀ (i : Instr) (s s' : State) (m m' : Matcher), s.matcher = some m → s'.matcher = some m' →
    s.runStateLen = s'.runStateLen → m.state = m'.state → m.expId = m'.expId → m.expMt = m'.expMt →
    ∃ t t' n n', exec i s = .next t ∧ exec i s' = .next t' ∧ t.matcher = some n ∧ t'.matcher = some n' ∧
      n.state = n'.state ∧ n.expId = n'.expId ∧ n.expMt = n'.expMt ∧
      (i ≠ .consume → i ≠ .mstat → t.response = t'.response)

/-! ### Invariants and runs -/

/-- Every step keeps the invariant: `EXP_MT = EXP_ID[25:0]`, `STATE` not Failed, RUNSTATE_LEN legal, the
identifier and message-type fields within their widths, nothing beside `ST` on a non-OK answer, `cmpl` 1
after a matched event. -/
def Obligations.EveryStepKeepsTheInvariant : Prop :=
  ∀ (s t : State), s.Inv → step s = .next t → t.Inv

/-- 10_state.md R20 and R21, along every run of every length, of every program the host may present, from
a reset with any draws of a machine that held anything. -/
def Obligations.RunsFromResetKeepTheRegistersSound : Prop :=
  ∀ (s t : State) (d : ResetDraw) (n : Nat) (m : Matcher),
    run n (s.takeReset d) = .next t → t.matcher = some m →
      m.state ≠ .failed ∧ m.expMt.toNat = m.expId.toNat % 2 ^ 26

/-- No step changes the parameters HAS_MATCHER and RUNSTATE_LEN (00_scope.md R9). -/
def Obligations.ParametersNeverChange : Prop :=
  ∀ (s t : State) (n : Nat), run n s = .next t → t.runStateLen = s.runStateLen ∧ t.hasMatcher = s.hasMatcher

/-- 60_exceptions.md R90: nothing traps; no run of any length ends in a fault or a refusal. -/
def Obligations.NoRunStops : Prop :=
  ∀ (s : State) (n : Nat), ∃ t, run n s = .next t

/-- Every step keeps a host program legal and its last answer not ILLEGAL (60_exceptions.md R91,
93_implementation_defined.md: "no ILLEGAL response" as the premise of a claim). -/
def Obligations.EveryStepKeepsProgramsLegal : Prop :=
  ∀ (s t : State), (∀ x ∈ s.inputs, Input.legal s.hasMatcher x = true) → s.answeredIllegal = false →
    step s = .next t → (∀ x ∈ t.inputs, Input.legal t.hasMatcher x = true) ∧ t.answeredIllegal = false

/-- A host program that presents no reserved word never sees ILLEGAL, at any step of any run
(60_exceptions.md R91, 93_implementation_defined.md). -/
def Obligations.LegalProgramsNeverSeeIllegal : Prop :=
  ∀ (s t : State) (n : Nat), (∀ x ∈ s.inputs, Input.legal s.hasMatcher x = true) → s.answeredIllegal = false →
    run n s = .next t → t.answeredIllegal = false

/-- 70_reset_and_hazards.md R109: once `cmpl` is 1, any operations but ISSUE and CONSUME, and any frames
whose identifier is not `EXP_ID`, however many, leave every register of the matcher as it is; a frame
equal to `EXP_ID` overwrites the reply, and ISSUE leaves it unreachable by CONSUME. -/
def Obligations.CapturedReplyIsSafeUntilOverwritten : Prop :=
  ∀ (s : State) (m : Matcher), s.matcher = some m → m.state = .completed →
    (∀ xs : List Input,
      (∀ x ∈ xs, (∃ c, x = .command c ∧ c.word ≠ 0x0C#8 ∧ c.word ≠ 0x0D#8) ∨
        (∃ f, x = .receive f ∧ ¬ (f.ide = true ∧ f.id = m.expId))) →
      ∃ t, run xs.length { s with inputs := xs ++ s.inputs } = .next t ∧ t.matcher = some m ∧ t.inputs = s.inputs) ∧
    (∀ f, f.ide = true → f.id = m.expId →
      ∃ t n, exec (.rxframe f) s = .next t ∧ t.matcher = some n ∧ n.state = .completed ∧ n.resp = f.data) ∧
    (∀ id, ∃ t u r, exec (.issue id) s = .next t ∧ exec .consume t = .next u ∧ u.response = .result r ∧ r.st = .notReady)

/-! ### Dispatch -/

/-- 42_matcher.md R87: the reply the caller observes is the first frame after ISSUE with the expected
message-type, whatever its error code, if no later frame equal to the expected identifier comes before
CONSUME; a later frame equal to it replaces the reply. During the wait the host may present any operation
but ISSUE and CONSUME, reserved words and MSTAT too, alone or at the same time as a frame. -/
def Obligations.DispatchObservesTheFirstMatchingReply : Prop :=
  ∀ (s : State) (m : Matcher) (id : Word) (before after : List Input) (x : Input) (f : Frame), s.matcher = some m →
    (∀ y ∈ before ++ x :: after, y.duringWait = true) →
    (∀ y ∈ before, ∀ g, y.frame? = some g → ¬ (g.ide = true ∧ msgType g.id = msgType (reply (readIdent id)))) →
    x.frame? = some f → (f.ide = true ∧ msgType f.id = msgType (reply (readIdent id))) →
    (∀ y ∈ after, ∀ g, y.frame? = some g → ¬ (g.ide = true ∧ g.id = reply (readIdent id))) →
    (dispatch id (before ++ x :: after) s).2 = .success f.data f.dlc (errField f.id) (known (errField f.id)) ∧
    (dispatch id (before ++ x :: after) s).1.matcher =
      some { state := .idle, expId := reply (readIdent id), expMt := msgType (reply (readIdent id)), resp := f.data,
             respLen := f.dlc, respErr := errField f.id } ∧
    ∀ (y : Input) (g : Frame), y.duringWait = true → y.frame? = some g → g.ide = true → g.id = reply (readIdent id) →
      (dispatch id (before ++ x :: (after ++ [y])) s).2 = .success g.data g.dlc (errField g.id) (known (errField g.id))

/-- 42_matcher.md R88: a dispatch that saw no matching frame times out and leaves Issued, the reply
registers as they were; a late frame is tested as any other, and the next ISSUE writes Issued over
whatever it left, so the next dispatch, with no matching frame of its own, times out as well. -/
def Obligations.TimedOutDispatchLeavesIssued : Prop :=
  ∀ (s : State) (m : Matcher) (id : Word) (during : List Input), s.matcher = some m →
    (∀ y ∈ during, y.duringWait = true) →
    (∀ y ∈ during, ∀ g, y.frame? = some g → ¬ (g.ide = true ∧ msgType g.id = msgType (reply (readIdent id)))) →
    (dispatch id during s).2 = .timeout ∧
    (dispatch id during s).1.matcher =
      some { m with expId := reply (readIdent id), expMt := msgType (reply (readIdent id)), state := .issued } ∧
    ∀ (late : Frame) (next : Word) (afterwards : List Input),
      ((late.ide = true ∧ msgType late.id = msgType (reply (readIdent id))) →
        (perform (.receive late) (dispatch id during s).1).cmpl = true) ∧
      ((∀ y ∈ afterwards, y.duringWait = true) →
        (∀ y ∈ afterwards, ∀ g, y.frame? = some g → ¬ (g.ide = true ∧ msgType g.id = msgType (reply (readIdent next)))) →
        (dispatch next afterwards (perform (.receive late) (dispatch id during s).1)).2 = .timeout)

/-- 70_reset_and_hazards.md R110: a late reply to a timed-out dispatch completes the next dispatch when
both have one message-type, and is what that dispatch's caller reads, its own reply coming after it or
not. -/
def Obligations.LateReplyCompletesTheNextDispatch : Prop :=
  ∀ (s : State) (m : Matcher) (first second : Word) (during later : List Input) (x : Input) (late : Frame),
    s.matcher = some m → msgType (reply (readIdent first)) = msgType (reply (readIdent second)) →
    (∀ y ∈ during, y.duringWait = true) → (∀ y ∈ x :: later, y.duringWait = true) →
    (∀ y ∈ during, ∀ g, y.frame? = some g → ¬ (g.ide = true ∧ msgType g.id = msgType (reply (readIdent first)))) →
    x.frame? = some late → (late.ide = true ∧ msgType late.id = msgType (reply (readIdent first))) →
    (∀ y ∈ later, ∀ g, y.frame? = some g → ¬ (g.ide = true ∧ g.id = reply (readIdent second))) →
    (dispatch first during s).2 = .timeout ∧
    (dispatch second (x :: later) (dispatch first during s).1).2 =
      .success late.data late.dlc (errField late.id) (known (errField late.id))

/-- 70_reset_and_hazards.md R107: a reply delivered before ISSUE, captured or not, does not end the
dispatch: ISSUE sets Issued and the wait, with no other matching frame, times out. -/
def Obligations.ReplyBeforeIssueTimesOut : Prop :=
  ∀ (s : State) (m : Matcher) (id : Word) (early : Frame) (during : List Input), s.matcher = some m →
    (∀ y ∈ during, y.duringWait = true) →
    (∀ y ∈ during, ∀ g, y.frame? = some g → ¬ (g.ide = true ∧ msgType g.id = msgType (reply (readIdent id)))) →
    (dispatch id during (perform (.receive early) s)).2 = .timeout

/-- 42_matcher.md R89: in Issued a reply and the same reply with any other error code both match, or both
do not, by `rx.ide` and bits 25:0 alone; a match completes the matcher, and CONSUME then ends OK with the
code on `out.ERR`. -/
def Obligations.AnyErrorCodeCompletesTheDispatch : Prop :=
  ∀ (s : State) (m : Matcher) (f g : Frame), s.matcher = some m → m.state = .issued →
    f.ide = g.ide → f.id.toNat % 2 ^ 26 = g.id.toNat % 2 ^ 26 →
    ∃ t u b, exec (.rxframe f) s = .next t ∧ exec (.rxframe g) s = .next u ∧
      t.response = .matched b ∧ u.response = .matched b ∧
      (b = true ↔ f.ide = true ∧ f.id.toNat % 2 ^ 26 = m.expMt.toNat) ∧
      (b = true → t.cmpl = true ∧ u.cmpl = true ∧
        ∃ v r, exec .consume u = .next v ∧ v.response = .result r ∧ r.st = .ok ∧
          r.err.toNat = g.id.toNat / 2 ^ 26 ∧ r.rp = g.data ∧ r.rlen = g.dlc)

/-- DISPATCH (30_encoding.md R56) is no more than a run of the block: the state it ends in is that of the
block stepping through ISSUE, what is presented during the wait and, if `cmpl` is then 1, CONSUME. The
form of the procedure is the model's choice (log entry 10). -/
def Obligations.DispatchIsARunOfTheBlock : Prop :=
  ∀ (s : State) (id : Word) (during : List Input),
    ∃ xs : List Input,
      xs = instrInput (.issue id) :: during ++
        (if (awaitReply id during s).cmpl = true then [instrInput .consume] else []) ∧
      run (xs.map Input.steps).sum { s with inputs := xs ++ s.inputs } = .next (dispatch id during s).1

/-- The moves of a host (60_exceptions.md R103) are a run of the block on what they present: every
presentation is performed whole, an operation and a frame at the same time as well, before the next move;
sending and a timeout change nothing (42_matcher.md R88). That both halves of a simultaneous presentation
are performed before the next move, with nothing between the two, is the model's choice (log entries 5 and
10): R98 says only that one comes after the other. -/
def Obligations.HostMovesAreARunOfTheBlock : Prop :=
  ∀ (s : State) (moves : List HostMove),
    ∃ xs : List Input, xs = moves.filterMap HostMove.input? ∧
      run (xs.map Input.steps).sum { s with inputs := xs ++ s.inputs } = .next (hostRun s moves) ∧
      (hostRun s moves).inputs = s.inputs

/-- When the duty of 70_reset_and_hazards.md R108 is kept. Between two moves that issue, with no other
ISSUE between them, some move has to end the first dispatch: a timeout, or a CONSUME that is answered OK,
be it presented alone or at the same time as a frame. That only such a CONSUME ends a dispatch is the
model's choice (log entry 10). -/
def Obligations.SecondIssueNeedsTheDispatchEnded : Prop :=
  (∀ (s : State) (x y : HostMove) (between : List HostMove), x.issued ≠ none → y.issued ≠ none →
    (∀ z ∈ between, z.issued = none) →
    (singleFlight false s (x :: between ++ [y]) = true ↔
      ∃ before z after, between = before ++ z :: after ∧ z.ends (hostRun s (x :: before)) = true)) ∧
  (∀ s : State, HostMove.timeout.ends s = true ∧ ∀ id, (HostMove.send id).ends s = false) ∧
  (∀ (s : State) (x : Input), (∀ c, x.command? = some c → c.word ≠ 0x0D#8) → (HostMove.present x).ends s = false) ∧
  (∀ (s : State) (c : Command) (f : Frame), c.word = 0x0D#8 →
    ((HostMove.present (.command c)).ends s = true ↔
      ∃ r, (perform (.command c) s).response = .result r ∧ r.st = .ok) ∧
    ((HostMove.present (.simultaneous c f false)).ends s = true ↔
      ∃ r, (perform (.command c) s).response = .result r ∧ r.st = .ok) ∧
    ((HostMove.present (.simultaneous c f true)).ends s = true ↔
      ∃ r, (perform (.command c) (perform (.receive f) s)).response = .result r ∧ r.st = .ok))

/-- The moves of a dispatch (60_exceptions.md R102) lead where `dispatch` does, and keep the duties of
70_reset_and_hazards.md R107 and R108, two dispatches in a row as well. The two predicates (when a
dispatch has ended, which transmissions an ISSUE covers) are the model's choice (log entry 10). -/
def Obligations.DispatchMovesKeepTheHostDuties : Prop :=
  ∀ (s : State) (a b : Word) (xs ys : List Input),
    (∀ y ∈ xs ++ ys, y.duringWait = true) →
    hostRun s (dispatchMoves a xs s) = (dispatch a xs s).1 ∧
    singleFlight false s (dispatchMoves a xs s ++ dispatchMoves b ys (dispatch a xs s).1) = true ∧
    issueFirst none (dispatchMoves a xs s ++ dispatchMoves b ys (dispatch a xs s).1) = true

/-- `DispatchFailed` is never produced (60_exceptions.md R96), whatever is presented during the wait; a
dispatch times out exactly when `cmpl` is 0 at the end of the wait (30_encoding.md R56, 60_exceptions.md
R102), and so always in a machine without the matcher. That the outcome is `DispatchFailed` when `STATE`
is Failed at the end of the wait, or when a CONSUME is not answered OK, and that the procedure runs without
the matcher at all, is the model's choice (log entry 10). -/
def Obligations.DispatchNeverFails : Prop :=
  ∀ (s : State) (id : Word) (during : List Input),
    (dispatch id during s).2 ≠ .failed ∧
    ((dispatch id during s).2 = .timeout ↔ (awaitReply id during s).cmpl = false) ∧
    (s.matcher = none → (dispatch id during s).2 = .timeout)

/-! ### Encoding -/

/-- Decoding an encoded instruction gives it back, with every operand at every value; and what decodes to
an instruction is its encoding, but for the operand fields the operation does not read
(30_encoding.md R48, R49). -/
def Obligations.DecodeAndEncodeAgree : Prop :=
  (∀ i, decode (encode i) = some i) ∧
  (∀ c i, decode (.command c) = some i → encode i = .command { c with ops := c.ops.readBy c.word }) ∧
  (∀ f i, decode (.receive f) = some i → encode i = .receive f)

/-- 30_encoding.md R49: the operand fields an operation does not list are ignored, at every step. -/
def Obligations.UnlistedOperandsAreIgnored : Prop :=
  ∀ (s : State) (w : Byte) (o o' : Operands) (rest : List Input), o.readBy w = o'.readBy w →
    step { s with inputs := .command { word := w, ops := o } :: rest } =
      step { s with inputs := .command { word := w, ops := o' } :: rest }

/-- 30_encoding.md R49: a source-level value wider than its field is refused, never truncated, and one
that fits is carried whole. The operations without a payload operand. -/
def Obligations.AssemblerRefusesWideValues : Prop :=
  (∀ src dst cmd dev : Nat,
    (assemble (.packid src dst cmd dev) = none ↔ 256 ≤ src ∨ 256 ≤ dst ∨ 64 ≤ cmd ∨ 16 ≤ dev) ∧
    ∀ p, assemble (.packid src dst cmd dev) = some p → ∃ a b c d, decode p = some (.packid a b c d) ∧
      a.toNat = src ∧ b.toNat = dst ∧ c.toNat = cmd ∧ d.toNat = dev) ∧
  (∀ id : Nat,
    (assemble (.unpackid id) = none ↔ 2 ^ 32 ≤ id) ∧ (assemble (.errcode id) = none ↔ 2 ^ 32 ≤ id) ∧
    (assemble (.replyid id) = none ↔ 2 ^ 32 ≤ id) ∧ (assemble (.msgtype id) = none ↔ 2 ^ 32 ≤ id) ∧
    (assemble (.issue id) = none ↔ 2 ^ 32 ≤ id) ∧
    (∀ p, assemble (.unpackid id) = some p → ∃ a, decode p = some (.unpackid a) ∧ a.toNat = id) ∧
    (∀ p, assemble (.errcode id) = some p → ∃ a, decode p = some (.errcode a) ∧ a.toNat = id) ∧
    (∀ p, assemble (.replyid id) = some p → ∃ a, decode p = some (.replyid a) ∧ a.toNat = id) ∧
    (∀ p, assemble (.msgtype id) = some p → ∃ a, decode p = some (.msgtype a) ∧ a.toNat = id) ∧
    (∀ p, assemble (.issue id) = some p → ∃ a, decode p = some (.issue a) ∧ a.toNat = id)) ∧
  (∀ v c : Nat, (assemble (.encvc v c) = none ↔ 2 ^ 32 ≤ v ∨ 2 ^ 32 ≤ c) ∧
    ∀ p, assemble (.encvc v c) = some p → ∃ a b, decode p = some (.encvc a b) ∧ a.toNat = v ∧ b.toNat = c) ∧
  (∀ en : Nat, (assemble (.encrun en) = none ↔ 2 ≤ en) ∧
    ∀ p, assemble (.encrun en) = some p → ∃ a, decode p = some (.encrun a) ∧ a.toNat = en) ∧
  (∃ p, assemble .consume = some p ∧ decode p = some .consume) ∧
  (∃ p, assemble .mstat = some p ∧ decode p = some .mstat)

/-- 30_encoding.md R49, for the operations with a payload operand and the receive event (R52): refused
exactly when a value is too wide for its field or the payload is not eight bytes; otherwise every value
and byte is carried whole. -/
def Obligations.AssemblerRefusesWidePayloads : Prop :=
  (∀ (src dst cmd dev len : Nat) (data : List Nat),
    (assemble (.encframe src dst cmd dev data len) = none ↔
      256 ≤ src ∨ 256 ≤ dst ∨ 64 ≤ cmd ∨ 16 ≤ dev ∨ 256 ≤ len ∨ data.length ≠ 8 ∨ ∃ b ∈ data, 256 ≤ b) ∧
    ∀ p, assemble (.encframe src dst cmd dev data len) = some p → ∃ a b c d q n,
      decode p = some (.encframe a b c d q n) ∧ a.toNat = src ∧ b.toNat = dst ∧ c.toNat = cmd ∧ d.toNat = dev ∧
      n.toNat = len ∧ ∀ i : Fin 8, data[i.val]? = some (payloadByte q i).toNat) ∧
  (∀ data : List Nat,
    (assemble (.decvc data) = none ↔ data.length ≠ 8 ∨ ∃ b ∈ data, 256 ≤ b) ∧
    (assemble (.decstat data) = none ↔ data.length ≠ 8 ∨ ∃ b ∈ data, 256 ≤ b) ∧
    (assemble (.deccount data) = none ↔ data.length ≠ 8 ∨ ∃ b ∈ data, 256 ≤ b) ∧
    (∀ p, assemble (.decvc data) = some p → ∃ q, decode p = some (.decvc q) ∧
      ∀ i : Fin 8, data[i.val]? = some (payloadByte q i).toNat) ∧
    (∀ p, assemble (.decstat data) = some p → ∃ q, decode p = some (.decstat q) ∧
      ∀ i : Fin 8, data[i.val]? = some (payloadByte q i).toNat) ∧
    (∀ p, assemble (.deccount data) = some p → ∃ q, decode p = some (.deccount q) ∧
      ∀ i : Fin 8, data[i.val]? = some (payloadByte q i).toNat)) ∧
  (∀ (id ide dlc : Nat) (data : List Nat),
    (assemble (.rx id ide dlc data) = none ↔
      2 ^ 29 ≤ id ∨ 2 ≤ ide ∨ 16 ≤ dlc ∨ data.length ≠ 8 ∨ ∃ b ∈ data, 256 ≤ b) ∧
    ∀ p, assemble (.rx id ide dlc data) = some p →
      ∃ f, p = .receive f ∧ f.id.toNat = id ∧ f.ide.toNat = ide ∧ f.dlc.toNat = dlc ∧
        ∀ i : Fin 8, data[i.val]? = some (payloadByte f.data i).toNat)

/-- 30_encoding.md R48: the operation map, with the operand fields that R49 lists for each operation; 0x00,
0x0F and the words above decode to nothing; the receive event is RXFRAME. -/
def Obligations.OperationMapHolds : Prop :=
  (∀ o : Operands,
    decode (.command ⟨0x01#8, o⟩) = some (.packid o.src o.dst o.cmd o.dev) ∧
    decode (.command ⟨0x02#8, o⟩) = some (.unpackid o.id) ∧ decode (.command ⟨0x03#8, o⟩) = some (.errcode o.id) ∧
    decode (.command ⟨0x04#8, o⟩) = some (.replyid o.id) ∧ decode (.command ⟨0x05#8, o⟩) = some (.msgtype o.id) ∧
    decode (.command ⟨0x06#8, o⟩) = some (.encframe o.src o.dst o.cmd o.dev o.p o.len) ∧
    decode (.command ⟨0x07#8, o⟩) = some (.encvc o.v o.c) ∧ decode (.command ⟨0x08#8, o⟩) = some (.decvc o.p) ∧
    decode (.command ⟨0x09#8, o⟩) = some (.decstat o.p) ∧ decode (.command ⟨0x0A#8, o⟩) = some (.deccount o.p) ∧
    decode (.command ⟨0x0B#8, o⟩) = some (.encrun o.en) ∧ decode (.command ⟨0x0C#8, o⟩) = some (.issue o.id) ∧
    decode (.command ⟨0x0D#8, o⟩) = some .consume ∧ decode (.command ⟨0x0E#8, o⟩) = some .mstat ∧
    ∀ w : Byte, (w.toNat = 0 ∨ 15 ≤ w.toNat) → decode (.command ⟨w, o⟩) = none) ∧
  (∀ f, decode (.receive f) = some (.rxframe f)) ∧
  (∀ i hasMatcher, Instr.existsIn hasMatcher i = false ↔
    hasMatcher = false ∧ ((∃ id, i = .issue id) ∨ i = .consume ∨ i = .mstat))

/-- Words of 30_encoding.md R48 decode to their instructions. -/
def Obligations.TableWordsDecodeToTheirInstructions : Prop :=
  decodeTableWord 8 0x01 = some (.packid 0 0 0 0) ∧ decodeTableWord 8 0x06 = some (.encframe 0 0 0 0 Payload.zero 0) ∧
  decodeTableWord 8 0x08 = some (.decvc Payload.zero) ∧ decodeTableWord 8 0x0B = some (.encrun false) ∧
  decodeTableWord 8 0x0D = some .consume ∧ decodeTableWord 8 0x0F = none ∧ decodeTableWord 8 0x81 = none
end

