-- ==== Sys2Proof/Laws/Bits.lean ====
section
/-! SUPPORT. The bit fields of the identifier and of the payload as numbers, and what packing, replying
and masking do to them. -/

namespace Sys2Proof.Machine

theorem readIdent_toNat (w : Word) : (readIdent w).toNat = w.toNat % 2 ^ 29 := by
  simp [readIdent]

@[simp] theorem readIdent_identWord (x : Ident) : readIdent (identWord x) = x := by
  apply BitVec.eq_of_toNat_eq
  have := x.isLt
  simp [readIdent, identWord]
  omega

theorem identWord_toNat (x : Ident) : (identWord x).toNat = x.toNat := by
  have := x.isLt
  simp [identWord]
  omega

theorem msgTypeWord_toNat (x : MsgType) : (msgTypeWord x).toNat = x.toNat := by
  have := x.isLt
  simp [msgTypeWord]
  omega

theorem errField_toNat (x : Ident) : (errField x).toNat = x.toNat / 2 ^ 26 := by
  have := x.isLt
  simp [errField, Nat.shiftRight_eq_div_pow]
  omega

theorem devField_toNat (x : Ident) : (devField x).toNat = x.toNat / 2 ^ 22 % 2 ^ 4 := by
  simp [devField, Nat.shiftRight_eq_div_pow]

theorem cmdField_toNat (x : Ident) : (cmdField x).toNat = x.toNat / 2 ^ 16 % 2 ^ 6 := by
  simp [cmdField, Nat.shiftRight_eq_div_pow]

theorem dstField_toNat (x : Ident) : (dstField x).toNat = x.toNat / 2 ^ 8 % 2 ^ 8 := by
  simp [dstField, Nat.shiftRight_eq_div_pow]

theorem srcField_toNat (x : Ident) : (srcField x).toNat = x.toNat % 2 ^ 8 := by
  simp [srcField]

theorem msgType_toNat (x : Ident) : (msgType x).toNat = x.toNat % 2 ^ 26 := by
  simp [msgType]

theorem append_toNat {m n : Nat} (a : BitVec m) (b : BitVec n) :
    (a ++ b).toNat = a.toNat * 2 ^ n + b.toNat := by
  rw [BitVec.toNat_append, Nat.shiftLeft_eq, Nat.mul_comm, ← Nat.two_pow_add_eq_or_of_lt b.isLt]

theorem packIdent_toNat (err : BitVec 3) (dev : BitVec 4) (cmd : BitVec 6) (dst src : Byte) :
    (packIdent err dev cmd dst src).toNat =
      err.toNat * 2 ^ 26 + dev.toNat * 2 ^ 22 + cmd.toNat * 2 ^ 16 + dst.toNat * 2 ^ 8 + src.toNat := by
  unfold packIdent
  simp only [append_toNat]
  omega

theorem reply_toNat (x : Ident) :
    (reply x).toNat = x.toNat / 2 ^ 16 * 2 ^ 16 + x.toNat % 2 ^ 8 * 2 ^ 8 + x.toNat / 2 ^ 8 % 2 ^ 8 := by
  have := x.isLt
  unfold reply
  simp only [append_toNat, srcField_toNat, dstField_toNat, BitVec.extractLsb'_toNat, Nat.shiftRight_eq_div_pow]
  omega

/-- The fields of a packed identifier are what was packed. -/
theorem fields_packIdent (err : BitVec 3) (dev : BitVec 4) (cmd : BitVec 6) (dst src : Byte) :
    errField (packIdent err dev cmd dst src) = err ∧ devField (packIdent err dev cmd dst src) = dev ∧
    cmdField (packIdent err dev cmd dst src) = cmd ∧ dstField (packIdent err dev cmd dst src) = dst ∧
    srcField (packIdent err dev cmd dst src) = src := by
  have := dev.isLt
  have := cmd.isLt
  have := dst.isLt
  have := src.isLt
  refine ⟨?_, ?_, ?_, ?_, ?_⟩ <;> apply BitVec.eq_of_toNat_eq <;>
    simp only [errField_toNat, devField_toNat, cmdField_toNat, dstField_toNat, srcField_toNat, packIdent_toNat] <;> omega

/-- An identifier is packed from its fields. -/
theorem packIdent_fields (x : Ident) :
    packIdent (errField x) (devField x) (cmdField x) (dstField x) (srcField x) = x := by
  have := x.isLt
  apply BitVec.eq_of_toNat_eq
  simp only [packIdent_toNat, errField_toNat, devField_toNat, cmdField_toNat, dstField_toNat, srcField_toNat]
  omega

theorem reply_eq_packIdent (x : Ident) :
    reply x = packIdent (errField x) (devField x) (cmdField x) (srcField x) (dstField x) := by
  have := x.isLt
  apply BitVec.eq_of_toNat_eq
  simp only [reply_toNat, packIdent_toNat, errField_toNat, devField_toNat, cmdField_toNat, dstField_toNat, srcField_toNat]
  omega

theorem be64_toNat (p : Payload) :
    (be64 p).toNat = p.b0.toNat * 2 ^ 56 + p.b1.toNat * 2 ^ 48 + p.b2.toNat * 2 ^ 40 + p.b3.toNat * 2 ^ 32 +
      p.b4.toNat * 2 ^ 24 + p.b5.toNat * 2 ^ 16 + p.b6.toNat * 2 ^ 8 + p.b7.toNat := by
  unfold be64
  simp only [append_toNat]
  omega

theorem be32_toNat (a b c d : Byte) :
    (be32 a b c d).toNat = a.toNat * 2 ^ 24 + b.toNat * 2 ^ 16 + c.toNat * 2 ^ 8 + d.toNat := by
  unfold be32
  simp only [append_toNat]
  omega

theorem wordByte_toNat (w : Word) (lo : Nat) : (wordByte w lo).toNat = w.toNat / 2 ^ lo % 2 ^ 8 := by
  simp [wordByte, Nat.shiftRight_eq_div_pow]

@[simp] theorem payloadByte_payloadOf (b : Fin 8 → Byte) (i : Fin 8) : payloadByte (payloadOf b) i = b i := by
  match i with
  | 0 => rfl
  | 1 => rfl
  | 2 => rfl
  | 3 => rfl
  | 4 => rfl
  | 5 => rfl
  | 6 => rfl
  | 7 => rfl

theorem payload_ext {p q : Payload} (h : ∀ i, payloadByte p i = payloadByte q i) : p = q := by
  cases p
  cases q
  simp only [Payload.mk.injEq]
  exact ⟨h 0, h 1, h 2, h 3, h 4, h 5, h 6, h 7⟩

/-- Byte `i` of the 64-bit view, counted from the least significant end. -/
theorem be64_byte (p : Payload) (n : Nat) (b : Byte) (h : (be64 p).toNat / 2 ^ n % 2 ^ 8 = b.toNat) :
    (be64 p).extractLsb' n 8 = b := by
  apply BitVec.eq_of_toNat_eq
  simpa [Nat.shiftRight_eq_div_pow] using h

theorem known_iff (e : BitVec 3) :
    known e = true ↔ e.toNat = 0 ∨ e.toNat = 2 ∨ e.toNat = 3 ∨ e.toNat = 7 := by
  revert e
  decide

end Sys2Proof.Machine
end

