-- ==== Sys2Proof/Laws/State.lean ====
section
/-! SUPPORT. One lemma per field per update of the state and of the matcher's registers. -/

namespace Sys2Proof.Machine

@[simp] theorem State.answer_runStateLen (s : State) (r : Result) : (s.answer r).runStateLen = s.runStateLen := rfl
@[simp] theorem State.answer_matcher (s : State) (r : Result) : (s.answer r).matcher = s.matcher := rfl
@[simp] theorem State.answer_response (s : State) (r : Result) : (s.answer r).response = .result r := rfl
@[simp] theorem State.answer_inputs (s : State) (r : Result) : (s.answer r).inputs = s.inputs := rfl

@[simp] theorem State.answerRx_runStateLen (s : State) (b : Bool) : (s.answerRx b).runStateLen = s.runStateLen := rfl
@[simp] theorem State.answerRx_matcher (s : State) (b : Bool) : (s.answerRx b).matcher = s.matcher := rfl
@[simp] theorem State.answerRx_response (s : State) (b : Bool) : (s.answerRx b).response = .matched b := rfl
@[simp] theorem State.answerRx_inputs (s : State) (b : Bool) : (s.answerRx b).inputs = s.inputs := rfl

@[simp] theorem State.setMatcher_runStateLen (s : State) (m : Matcher) : (s.setMatcher m).runStateLen = s.runStateLen := rfl
@[simp] theorem State.setMatcher_matcher (s : State) (m : Matcher) : (s.setMatcher m).matcher = some m := rfl
@[simp] theorem State.setMatcher_response (s : State) (m : Matcher) : (s.setMatcher m).response = s.response := rfl
@[simp] theorem State.setMatcher_inputs (s : State) (m : Matcher) : (s.setMatcher m).inputs = s.inputs := rfl

@[simp] theorem State.answerIllegal_runStateLen (s : State) : s.answerIllegal.runStateLen = s.runStateLen := rfl
@[simp] theorem State.answerIllegal_matcher (s : State) : s.answerIllegal.matcher = s.matcher := rfl
@[simp] theorem State.answerIllegal_response (s : State) : s.answerIllegal.response = .result (Result.only .illegal) := rfl
@[simp] theorem State.answerIllegal_inputs (s : State) : s.answerIllegal.inputs = s.inputs := rfl

@[simp] theorem State.answerNotReady_runStateLen (s : State) : s.answerNotReady.runStateLen = s.runStateLen := rfl
@[simp] theorem State.answerNotReady_matcher (s : State) : s.answerNotReady.matcher = s.matcher := rfl
@[simp] theorem State.answerNotReady_response (s : State) : s.answerNotReady.response = .result (Result.only .notReady) := rfl
@[simp] theorem State.answerNotReady_inputs (s : State) : s.answerNotReady.inputs = s.inputs := rfl

@[simp] theorem State.takeReset_runStateLen (s : State) (d : ResetDraw) : (s.takeReset d).runStateLen = s.runStateLen := rfl
@[simp] theorem State.takeReset_matcher (s : State) (d : ResetDraw) : (s.takeReset d).matcher = s.matcher.map fun _ => resetMatcher d := rfl
@[simp] theorem State.takeReset_response (s : State) (d : ResetDraw) : (s.takeReset d).response = .result Result.zero := rfl
@[simp] theorem State.takeReset_inputs (s : State) (d : ResetDraw) : (s.takeReset d).inputs = s.inputs := rfl

@[simp] theorem Matcher.arm_state (m : Matcher) (id : Ident) : (m.arm id).state = .issued := rfl
@[simp] theorem Matcher.arm_expId (m : Matcher) (id : Ident) : (m.arm id).expId = reply id := rfl
@[simp] theorem Matcher.arm_expMt (m : Matcher) (id : Ident) : (m.arm id).expMt = msgType (reply id) := rfl
@[simp] theorem Matcher.arm_resp (m : Matcher) (id : Ident) : (m.arm id).resp = m.resp := rfl
@[simp] theorem Matcher.arm_respLen (m : Matcher) (id : Ident) : (m.arm id).respLen = m.respLen := rfl
@[simp] theorem Matcher.arm_respErr (m : Matcher) (id : Ident) : (m.arm id).respErr = m.respErr := rfl

@[simp] theorem Matcher.capture_state (m : Matcher) (f : Frame) : (m.capture f).state = .completed := rfl
@[simp] theorem Matcher.capture_expId (m : Matcher) (f : Frame) : (m.capture f).expId = m.expId := rfl
@[simp] theorem Matcher.capture_expMt (m : Matcher) (f : Frame) : (m.capture f).expMt = m.expMt := rfl
@[simp] theorem Matcher.capture_resp (m : Matcher) (f : Frame) : (m.capture f).resp = f.data := rfl
@[simp] theorem Matcher.capture_respLen (m : Matcher) (f : Frame) : (m.capture f).respLen = f.dlc := rfl
@[simp] theorem Matcher.capture_respErr (m : Matcher) (f : Frame) : (m.capture f).respErr = errField f.id := rfl

@[simp] theorem Matcher.release_state (m : Matcher) : m.release.state = .idle := rfl
@[simp] theorem Matcher.release_expId (m : Matcher) : m.release.expId = m.expId := rfl
@[simp] theorem Matcher.release_expMt (m : Matcher) : m.release.expMt = m.expMt := rfl
@[simp] theorem Matcher.release_resp (m : Matcher) : m.release.resp = m.resp := rfl
@[simp] theorem Matcher.release_respLen (m : Matcher) : m.release.respLen = m.respLen := rfl
@[simp] theorem Matcher.release_respErr (m : Matcher) : m.release.respErr = m.respErr := rfl

@[simp] theorem resetMatcher_state (d : ResetDraw) : (resetMatcher d).state = .idle := rfl
@[simp] theorem resetMatcher_expId (d : ResetDraw) : (resetMatcher d).expId = d.expId := rfl
@[simp] theorem resetMatcher_expMt (d : ResetDraw) : (resetMatcher d).expMt = msgType d.expId := rfl
@[simp] theorem resetMatcher_resp (d : ResetDraw) : (resetMatcher d).resp = d.resp := rfl
@[simp] theorem resetMatcher_respLen (d : ResetDraw) : (resetMatcher d).respLen = d.respLen := rfl
@[simp] theorem resetMatcher_respErr (d : ResetDraw) : (resetMatcher d).respErr = d.respErr := rfl

@[simp] theorem Result.only_st (x : Status) : (Result.only x).st = x := rfl

theorem Result.only_ok : Result.only .ok = Result.zero := rfl

end Sys2Proof.Machine
end

