-- ==== Sys2Proof/Laws/Step.lean ====
section
/-! SUPPORT. What the shared operations and a step can do: one lemma each, to be cited instead of
unfolding. -/

namespace Sys2Proof.Machine

theorem ifMatcher_none {s : State} (h : s.matcher = none) (act : Matcher → State) :
    s.ifMatcher act = s.answerIllegal := by
  simp [State.ifMatcher, h]

theorem ifMatcher_some {s : State} {m : Matcher} (h : s.matcher = some m) (act : Matcher → State) :
    s.ifMatcher act = act m := by
  simp [State.ifMatcher, h]

theorem cmpl_some {s : State} {m : Matcher} (h : s.matcher = some m) :
    s.cmpl = true ↔ m.state = .completed := by
  simp [State.cmpl, h]

theorem cmpl_none {s : State} (h : s.matcher = none) : s.cmpl = false := by
  simp [State.cmpl, h]

theorem accepts_issued {m : Matcher} (h : m.state = .issued) (f : Frame) :
    m.accepts f = true ↔ f.ide = true ∧ msgType f.id = m.expMt := by
  simp [Matcher.accepts, h]

theorem accepts_other {m : Matcher} (h : m.state ≠ .issued) (f : Frame) :
    m.accepts f = true ↔ f.ide = true ∧ f.id = m.expId := by
  cases hs : m.state <;> simp_all [Matcher.accepts]

/-- RXFRAME with the matcher present, by whether the frame is accepted. -/
theorem execRxframe_some {s : State} {m : Matcher} (h : s.matcher = some m) (f : Frame) :
    execRxframe f s =
      .next (if m.accepts f then (s.setMatcher (m.capture f)).answerRx true else s.answerRx false) := by
  simp [execRxframe, h]

/-- Every instruction completes; the parameters and what is presented next are untouched. -/
theorem exec_next (i : Instr) (s : State) :
    ∃ t, exec i s = .next t ∧ t.runStateLen = s.runStateLen ∧ t.inputs = s.inputs ∧
      t.hasMatcher = s.hasMatcher := by
  cases i <;> refine ⟨_, rfl, ?_⟩ <;> cases hm : s.matcher <;> simp [State.hasMatcher, State.ifMatcher, hm]
  all_goals split <;> simp [hm]

/-- No instruction reads or writes what is presented next. -/
theorem exec_withInputs {i : Instr} {s t : State} (h : exec i s = .next t) (xs : List Input) :
    exec i { s with inputs := xs } = .next { t with inputs := xs } := by
  cases i <;> cases h <;> first | rfl | skip
  all_goals cases hm : s.matcher <;> simp [exec, execIssue, execConsume, execMstat, execRxframe, State.ifMatcher,
    State.answer, State.answerRx, State.answerIllegal, State.answerNotReady, State.setMatcher, hm]
  all_goals split <;> rfl

/-- A step is a stutter, a reset, a meaning, or an ILLEGAL answer. -/
theorem step_cases (s : State) :
    (s.inputs = [] ∧ step s = .next s) ∨
    (∃ d rest, s.inputs = .reset d :: rest ∧ step s = .next ({ s with inputs := rest }.takeReset d)) ∨
    (∃ p rest i, decode p = some i ∧ step s = exec i { s with inputs := rest }) ∨
    (∃ p rest, decode p = none ∧ step s = .next ({ s with inputs := rest }.answerIllegal)) := by
  have present : ∀ p rest, step s = performWith exec p { s with inputs := rest } →
      (∃ p rest i, decode p = some i ∧ step s = exec i { s with inputs := rest }) ∨
      (∃ p rest, decode p = none ∧ step s = .next ({ s with inputs := rest }.answerIllegal)) := by
    intro p rest h
    cases hd : decode p with
    | some i => exact .inl ⟨p, rest, i, hd, by simp [h, performWith, hd]⟩
    | none => exact .inr ⟨p, rest, hd, by simp [h, performWith, hd]⟩
  cases hi : s.inputs with
  | nil => exact .inl ⟨rfl, by simp [step, fetch, hi]⟩
  | cons x rest =>
    cases x with
    | reset d => exact .inr (.inl ⟨d, rest, rfl, by simp [step, fetch, hi]⟩)
    | command c => exact .inr (.inr (present (.command c) rest (by simp [step, fetch, hi])))
    | receive f => exact .inr (.inr (present (.receive f) rest (by simp [step, fetch, hi])))
    | simultaneous c f rf =>
      cases rf with
      | true => exact .inr (.inr (present (.receive f) (.command c :: rest) (by simp [step, fetch, hi])))
      | false => exact .inr (.inr (present (.command c) (.receive f :: rest) (by simp [step, fetch, hi])))

theorem step_command (s : State) (c : Command) (rest : List Input) :
    step { s with inputs := .command c :: rest } = performWith exec (.command c) { s with inputs := rest } := rfl

theorem step_receive (s : State) (f : Frame) (rest : List Input) :
    step { s with inputs := .receive f :: rest } = execRxframe f { s with inputs := rest } := rfl

theorem step_reset (s : State) (d : ResetDraw) (rest : List Input) :
    step { s with inputs := .reset d :: rest } = .next ({ s with inputs := rest }.takeReset d) := rfl

theorem step_frameFirst (s : State) (c : Command) (f : Frame) (rest : List Input) :
    step { s with inputs := .simultaneous c f true :: rest } =
      step { s with inputs := .receive f :: .command c :: rest } := rfl

theorem step_commandFirst (s : State) (c : Command) (f : Frame) (rest : List Input) :
    step { s with inputs := .simultaneous c f false :: rest } =
      step { s with inputs := .command c :: .receive f :: rest } := rfl

/-- Every step completes. -/
theorem step_next (s : State) : ∃ t, step s = .next t := by
  rcases step_cases s with ⟨_, h⟩ | ⟨_, _, _, h⟩ | ⟨_, rest, i, _, h⟩ | ⟨_, _, _, h⟩
  · exact ⟨_, h⟩
  · exact ⟨_, h⟩
  · obtain ⟨t, ht, _⟩ := exec_next i { s with inputs := rest }
    exact ⟨t, h.trans ht⟩
  · exact ⟨_, h⟩

/-- A run of `n + 1` steps is a step and a run of `n`. -/
theorem run_succ {s t : State} (h : step s = .next t) (n : Nat) : run (n + 1) s = run n t := by
  simp only [run, Host.Core.run]
  rw [show core.step s = .next t from h]

theorem run_zero (s : State) : run 0 s = .next s := rfl

/-- The reset values of `State.reset` are those of a reset step with Config's draws. -/
theorem reset_eq_takeReset (s : State) (h : s.hasMatcher = true) (hl : s.runStateLen = Config.runStateLen)
    (hi : s.inputs = []) :
    s.takeReset { expId := Config.expIdReset, resp := Config.respReset, respLen := Config.respLenReset,
                  respErr := Config.respErrReset } = State.reset := by
  obtain ⟨l, m, r, ins⟩ := s
  cases m <;> simp_all [State.hasMatcher, State.takeReset, State.reset, Config.hasMatcher, resetMatcher]
  rfl

end Sys2Proof.Machine
end

