-- ==== Sys2Proof/Laws/HostProc.lean ====
section
/-! SUPPORT. What one presentation does, for the presentations a dispatch is made of. -/

namespace Sys2Proof.Machine

/-- An input that is one step is that step. -/
theorem perform_eq {x : Input} {s t : State} (h : step { s with inputs := x :: s.inputs } = .next t)
    (hx : x.steps = 1 := by rfl) : perform x s = t := by
  rw [perform, hx, run_succ h, run_zero]

theorem perform_reset (d : ResetDraw) (s : State) : perform (.reset d) s = s.takeReset d :=
  perform_eq (step_reset s d s.inputs)

theorem perform_illegal {c : Command} (h : decode (.command c) = none) (s : State) :
    perform (.command c) s = s.answerIllegal :=
  perform_eq (by rw [step_command]; simp [performWith, h])

theorem perform_operation {c : Command} {i : Instr} {s t : State} (h : decode (.command c) = some i)
    (ht : exec i s = .next t) : perform (.command c) s = t :=
  perform_eq (by rw [step_command]; simpa [performWith, h] using ht)

theorem decode_issue (id : Word) : decode (encode (.issue id)) = some (.issue id) := by
  simp [encode, decode, decodeCommand, rsvField, opField, decodeOp]

theorem step_issue (id : Word) (s : State) :
    step { s with inputs := instrInput (.issue id) :: s.inputs } = execIssue id s := by
  show performWith exec (encode (.issue id)) s = _
  simp [performWith, decode_issue, exec]

theorem perform_issue_some {s : State} {m : Matcher} (h : s.matcher = some m) (id : Word) :
    perform (instrInput (.issue id)) s = (s.setMatcher (m.arm (readIdent id))).answer Result.zero :=
  perform_eq (by
    rw [step_issue, execIssue, ifMatcher_some h])

theorem perform_issue_none {s : State} (h : s.matcher = none) (id : Word) :
    perform (instrInput (.issue id)) s = s.answerIllegal :=
  perform_eq (by
    rw [step_issue, execIssue, ifMatcher_none h])

theorem perform_receive_some {s : State} {m : Matcher} (h : s.matcher = some m) (f : Frame) :
    perform (.receive f) s =
      if m.accepts f then (s.setMatcher (m.capture f)).answerRx true else s.answerRx false :=
  perform_eq (execRxframe_some h f)

theorem perform_receive_none {s : State} (h : s.matcher = none) (f : Frame) :
    perform (.receive f) s = s.answerRx false :=
  perform_eq (by
    show execRxframe f s = _
    simp [execRxframe, h])

theorem perform_consume_completed {s : State} {m : Matcher} (h : s.matcher = some m) (hc : m.state = .completed) :
    perform (instrInput .consume) s =
      (s.setMatcher m.release).answer { Result.zero with
        rp := m.resp, rlen := m.respLen, err := m.respErr, known := known m.respErr } :=
  perform_eq (by
    show execConsume s = _
    rw [execConsume, ifMatcher_some h]
    simp [hc])

/-- What one operation or one frame does does not depend on what is presented later, and leaves it. -/
theorem perform_command_withInputs (c : Command) (s : State) (xs : List Input) :
    perform (.command c) { s with inputs := xs } = { perform (.command c) s with inputs := xs } ∧
      (perform (.command c) s).inputs = s.inputs := by
  cases hd : decode (.command c) with
  | none => rw [perform_illegal hd, perform_illegal hd]; exact ⟨rfl, rfl⟩
  | some i =>
    obtain ⟨t, ht, -, hi, -⟩ := exec_next i s
    rw [perform_operation hd ht, perform_operation hd (exec_withInputs ht xs)]
    exact ⟨rfl, hi⟩

theorem perform_receive_withInputs (f : Frame) (s : State) (xs : List Input) :
    perform (.receive f) { s with inputs := xs } = { perform (.receive f) s with inputs := xs } ∧
      (perform (.receive f) s).inputs = s.inputs := by
  obtain ⟨t, ht, -, hi, -⟩ := exec_next (.rxframe f) s
  have h2 : perform (.receive f) { s with inputs := xs } = { t with inputs := xs } := perform_eq (exec_withInputs ht xs)
  rw [h2, perform_eq (x := .receive f) (s := s) ht]
  exact ⟨rfl, hi⟩

theorem step_perform_command (c : Command) (s : State) :
    step { s with inputs := .command c :: s.inputs } = .next (perform (.command c) s) := by
  obtain ⟨t, ht⟩ := step_next { s with inputs := .command c :: s.inputs }
  rw [ht, perform_eq ht]

theorem step_perform_receive (f : Frame) (s : State) :
    step { s with inputs := .receive f :: s.inputs } = .next (perform (.receive f) s) := by
  obtain ⟨t, ht⟩ := step_next { s with inputs := .receive f :: s.inputs }
  rw [ht, perform_eq ht]

/-- An operation and a frame at the same time are the one and then the other (60_exceptions.md R98). -/
theorem perform_commandFirst (c : Command) (f : Frame) (s : State) :
    perform (.simultaneous c f false) s = perform (.receive f) (perform (.command c) s) := by
  obtain ⟨h1, h2⟩ := perform_command_withInputs c s (.receive f :: s.inputs)
  have hs := step_perform_command c { s with inputs := .receive f :: s.inputs }
  have hr := step_perform_receive f (perform (.command c) s)
  rw [h1] at hs
  rw [h2] at hr
  rw [perform, Input.steps, run_succ ((step_commandFirst s c f s.inputs).trans hs), run_succ hr, run_zero]

theorem perform_frameFirst (c : Command) (f : Frame) (s : State) :
    perform (.simultaneous c f true) s = perform (.command c) (perform (.receive f) s) := by
  obtain ⟨h1, h2⟩ := perform_receive_withInputs f s (.command c :: s.inputs)
  have hs := step_perform_receive f { s with inputs := .command c :: s.inputs }
  have hr := step_perform_command c (perform (.receive f) s)
  rw [h1] at hs
  rw [h2] at hr
  rw [perform, Input.steps, run_succ ((step_frameFirst s c f s.inputs).trans hs), run_succ hr, run_zero]

/-- Presenting an input is independent of what is presented later, and leaves it. -/
theorem perform_withInputs (x : Input) (s : State) (xs : List Input) :
    perform x { s with inputs := xs } = { perform x s with inputs := xs } ∧ (perform x s).inputs = s.inputs := by
  cases x with
  | command c => exact perform_command_withInputs c s xs
  | receive f => exact perform_receive_withInputs f s xs
  | reset d => rw [perform_reset, perform_reset]; exact ⟨rfl, rfl⟩
  | simultaneous c f receiveFirst =>
    have hc := perform_command_withInputs c
    have hf := perform_receive_withInputs f
    cases receiveFirst with
    | false => simp only [perform_commandFirst, (hc s xs).1, (hf _ xs).1, (hf _ xs).2, (hc s xs).2, and_self]
    | true => simp only [perform_frameFirst, (hf s xs).1, (hc _ xs).1, (hc _ xs).2, (hf s xs).2, and_self]

/-- An input is performed by as many steps as it has. -/
theorem run_perform (x : Input) (s : State) :
    run x.steps { s with inputs := x :: s.inputs } = .next (perform x s) := by
  have h : ∃ t, run x.steps { s with inputs := x :: s.inputs } = .next t := by
    obtain ⟨t, ht⟩ := step_next { s with inputs := x :: s.inputs }
    obtain ⟨u, hu⟩ := step_next t
    cases x with
    | simultaneous c f receiveFirst => exact ⟨u, by rw [Input.steps, run_succ ht, run_succ hu, run_zero]⟩
    | command c => exact ⟨t, by rw [Input.steps, run_succ ht, run_zero]⟩
    | receive f => exact ⟨t, by rw [Input.steps, run_succ ht, run_zero]⟩
    | reset d => exact ⟨t, by rw [Input.steps, run_succ ht, run_zero]⟩
  obtain ⟨t, ht⟩ := h
  simp [perform, ht]

theorem performAll_cons (x : Input) (xs : List Input) (s : State) :
    performAll (x :: xs) s = performAll xs (perform x s) := rfl

theorem performAll_append (xs ys : List Input) (s : State) :
    performAll (xs ++ ys) s = performAll ys (performAll xs s) := List.foldl_append

theorem hostRun_append (s : State) (xs ys : List HostMove) : hostRun s (xs ++ ys) = hostRun (hostRun s xs) ys :=
  List.foldl_append

end Sys2Proof.Machine
end

