-- ==== Sys2Proof/Laws/PerInstr.lean ====
section
/-! SUPPORT. Per-instruction facts about the syntax. Family `PortWord`: every instruction but RXFRAME is
presented by a command word with RSV 0 and an operation code other than 0 and F (30_encoding.md R47,
R53), and RXFRAME on the receive port (R52). -/

namespace Sys2Proof.Laws.PortWord

def Statement (i : Instr) : Prop :=
  match encode i with
  | .command c => rsvField c.word = 0 ∧ opField c.word ≠ 0x0 ∧ opField c.word ≠ 0xF
  | .receive f => i = .rxframe f

theorem packid (src dst : Byte) (cmd : BitVec 6) (dev : BitVec 4) : Statement (.packid src dst cmd dev) := by
  simp only [Statement, encode]; decide
theorem unpackid (id : Word) : Statement (.unpackid id) := by simp only [Statement, encode]; decide
theorem errcode (id : Word) : Statement (.errcode id) := by simp only [Statement, encode]; decide
theorem replyid (id : Word) : Statement (.replyid id) := by simp only [Statement, encode]; decide
theorem msgtype (id : Word) : Statement (.msgtype id) := by simp only [Statement, encode]; decide
theorem encframe (src dst : Byte) (cmd : BitVec 6) (dev : BitVec 4) (p : Payload) (len : Byte) :
    Statement (.encframe src dst cmd dev p len) := by simp only [Statement, encode]; decide
theorem encvc (v c : Word) : Statement (.encvc v c) := by simp only [Statement, encode]; decide
theorem decvc (p : Payload) : Statement (.decvc p) := by simp only [Statement, encode]; decide
theorem decstat (p : Payload) : Statement (.decstat p) := by simp only [Statement, encode]; decide
theorem deccount (p : Payload) : Statement (.deccount p) := by simp only [Statement, encode]; decide
theorem encrun (en : Bool) : Statement (.encrun en) := by simp only [Statement, encode]; decide
theorem issue (id : Word) : Statement (.issue id) := by simp only [Statement, encode]; decide
theorem consume : Statement .consume := by simp only [Statement, encode]; decide
theorem mstat : Statement .mstat := by simp only [Statement, encode]; decide
theorem rxframe (f : Frame) : Statement (.rxframe f) := rfl

end Sys2Proof.Laws.PortWord
end

