-- ==== Sys2Proof/Tests/Slice0.lean ====
section
/-! SUPPORT. Small tests: the smoke of WellFormed, the words of the operation map, one step per
instruction with a result of spec/95_test_vectors.md, and for every statement with hypotheses a witness
that meets them all. -/

namespace Sys2Proof.Tests

open Sys2Proof.Machine

/-! ### Helpers -/

def stateOf : Host.Outcome State Fault Refusal → Option State
  | .next t => some t
  | .fault _ => none
  | .refused _ => none

/-- The result fields after an instruction. -/
def resultOf (o : Host.Outcome State Fault Refusal) : Option Result :=
  (stateOf o).bind fun t => match t.response with
    | .result r => some r
    | .matched _ => none

def matcherOf (o : Host.Outcome State Fault Refusal) : Option Matcher := (stateOf o).bind (·.matcher)

/-- The registers of V-M1: `ISSUE id=0x02813FF0`, with a reply captured before it. -/
def issuedRegs : Matcher :=
  { state := .issued, expId := 0x0281F03F, expMt := 0x0281F03F, resp := ⟨1, 2, 3, 4, 5, 6, 7, 8⟩, respLen := 4, respErr := 6 }

def withRegs (m : Matcher) : State :=
  { runStateLen := 3, matcher := some m, response := .matched false, inputs := [] }

def issued : State := withRegs issuedRegs
def completed : State := withRegs { issuedRegs with state := .completed }
def idle : State := withRegs { issuedRegs with state := .idle }
def noMatcher : State := { issued with matcher := none }

def someDraw : ResetDraw := { expId := 0x00123456, resp := ⟨0x11, 0x11, 0x11, 0x11, 0x11, 0x11, 0x11, 0x11⟩, respLen := 3, respErr := 6 }

def frame (id : Ident) : Frame := { id := id, ide := true, dlc := 8, data := ⟨0x00, 0x01, 0x2A, 0x37, 0x05, 0x00, 0x00, 0x00⟩ }

/-- Operands with a value of its own in every field. -/
def someOps : Operands :=
  { src := 0xF0, dst := 0x3F, cmd := 0x01, dev := 0xA, id := 0x02813FF0, v := 230500, c := 16200, en := true,
    p := ⟨0x00, 0x01, 0x2A, 0x37, 0x05, 0x00, 0x00, 0x00⟩, len := 3 }

def word (w : Byte) : Option Instr := decode (.command { word := w, ops := someOps })

/-! ### WellFormed refuses what is ill-formed -/

theorem smoke_issue_needs_matcher : (Instr.issue 0).existsIn false = false := by decide
theorem smoke_consume_needs_matcher : Instr.consume.existsIn false = false := by decide
theorem smoke_mstat_needs_matcher : Instr.mstat.existsIn false = false := by decide
theorem smoke_src_wide : (Source.packid 256 0 0 0).fits = false := by decide
theorem smoke_dst_wide : (Source.packid 0 256 0 0).fits = false := by decide
theorem smoke_cmd_wide : (Source.packid 0 0 64 0).fits = false := by decide
theorem smoke_dev_wide : (Source.packid 0 0 0 16).fits = false := by decide
theorem smoke_id_wide : (Source.unpackid (2 ^ 32)).fits = false ∧ (Source.errcode (2 ^ 32)).fits = false ∧
    (Source.replyid (2 ^ 32)).fits = false ∧ (Source.msgtype (2 ^ 32)).fits = false ∧ (Source.issue (2 ^ 32)).fits = false := by
  decide
theorem smoke_encframe : (Source.encframe 256 0 0 0 [0, 0, 0, 0, 0, 0, 0, 0] 0).fits = false ∧
    (Source.encframe 0 256 0 0 [0, 0, 0, 0, 0, 0, 0, 0] 0).fits = false ∧
    (Source.encframe 0 0 64 0 [0, 0, 0, 0, 0, 0, 0, 0] 0).fits = false ∧
    (Source.encframe 0 0 0 16 [0, 0, 0, 0, 0, 0, 0, 0] 0).fits = false ∧
    (Source.encframe 0 0 0 0 [0, 0, 0, 0, 0, 0, 0] 0).fits = false ∧
    (Source.encframe 0 0 0 0 [0, 0, 0, 0, 0, 0, 0, 0] 256).fits = false := by decide
theorem smoke_words_wide : (Source.encvc (2 ^ 32) 0).fits = false ∧ (Source.encvc 0 (2 ^ 32)).fits = false := by decide
theorem smoke_payload_length : (Source.decvc [0, 0, 0, 0, 0, 0, 0, 0, 0]).fits = false ∧
    (Source.decstat []).fits = false ∧ (Source.deccount [0]).fits = false := by decide
theorem smoke_payload_byte_wide : (Source.decvc [0, 0, 0, 256, 0, 0, 0, 0]).fits = false := by decide
theorem smoke_en_wide : (Source.encrun 2).fits = false := by decide
theorem smoke_rx : (Source.rx (2 ^ 29) 1 8 [0, 0, 0, 0, 0, 0, 0, 0]).fits = false ∧
    (Source.rx 0 2 8 [0, 0, 0, 0, 0, 0, 0, 0]).fits = false ∧
    (Source.rx 0 1 16 [0, 0, 0, 0, 0, 0, 0, 0]).fits = false ∧ (Source.rx 0 1 8 [0, 0]).fits = false := by decide
theorem smoke_runStateLen : legalRunStateLen 0 = false ∧ legalRunStateLen 9 = false ∧ legalRunStateLen 1 = true ∧
    legalRunStateLen 8 = true := by decide
theorem smoke_fits : (Source.packid 255 255 63 15).fits = true ∧
    (Source.rx (2 ^ 29 - 1) 1 15 [255, 0, 0, 0, 0, 0, 0, 255]).fits = true := by decide

/-! ### The words of the operation map (30_encoding.md R47, R48), RSV 0000 and then OP -/

theorem test_word_packid : word 0b00000001#8 = some (.packid 0xF0 0x3F 0x01 0xA) := by decide
theorem test_word_unpackid : word 0b00000010#8 = some (.unpackid 0x02813FF0) := by decide
theorem test_word_errcode : word 0b00000011#8 = some (.errcode 0x02813FF0) := by decide
theorem test_word_replyid : word 0b00000100#8 = some (.replyid 0x02813FF0) := by decide
theorem test_word_msgtype : word 0b00000101#8 = some (.msgtype 0x02813FF0) := by decide
theorem test_word_encframe : word 0b00000110#8 =
    some (.encframe 0xF0 0x3F 0x01 0xA ⟨0x00, 0x01, 0x2A, 0x37, 0x05, 0x00, 0x00, 0x00⟩ 3) := by decide
theorem test_word_encvc : word 0b00000111#8 = some (.encvc 230500 16200) := by decide
theorem test_word_decvc : word 0b00001000#8 = some (.decvc ⟨0x00, 0x01, 0x2A, 0x37, 0x05, 0x00, 0x00, 0x00⟩) := by decide
theorem test_word_decstat : word 0b00001001#8 = some (.decstat ⟨0x00, 0x01, 0x2A, 0x37, 0x05, 0x00, 0x00, 0x00⟩) := by decide
theorem test_word_deccount : word 0b00001010#8 = some (.deccount ⟨0x00, 0x01, 0x2A, 0x37, 0x05, 0x00, 0x00, 0x00⟩) := by decide
theorem test_word_encrun : word 0b00001011#8 = some (.encrun true) := by decide
theorem test_word_issue : word 0b00001100#8 = some (.issue 0x02813FF0) := by decide
theorem test_word_consume : word 0b00001101#8 = some .consume := by decide
theorem test_word_mstat : word 0b00001110#8 = some .mstat := by decide
/-- V-X1 to V-X5. -/
theorem test_words_reserved : word 0x00 = none ∧ word 0x0F = none ∧ word 0x10 = none ∧ word 0x81 = none ∧ word 0xFF = none := by
  decide
theorem test_rx_is_rxframe : decode (.receive (frame 5)) = some (.rxframe (frame 5)) := by decide

/-! ### One step per instruction (spec/95_test_vectors.md) -/

/-- R57, example. -/
theorem test_packid : (resultOf (exec (.packid 0xF0 0x3F 0x01 0xA) idle)).map (fun r => (r.st, r.id, r.ide)) =
    some (.ok, 0x02813FF0, true) := by decide
/-- V-I5. -/
theorem test_unpackid : (resultOf (exec (.unpackid 0xFFFFFFFF) idle)).map (fun r => (r.err, r.dev, r.cmd, r.dst, r.src)) =
    some (7, 0xF, 0x3F, 0xFF, 0xFF) := by decide
/-- V-I8 and V-I10. -/
theorem test_errcode : (resultOf (exec (.errcode 0x0A81F03F) idle)).map (fun r => (r.err, r.known)) = some (2, true) ∧
    (resultOf (exec (.errcode 0x1281F03F) idle)).map (fun r => (r.err, r.known)) = some (4, false) := by decide
/-- S2, last row: bits 31:29 are ignored, the error code is kept. -/
theorem test_replyid : (resultOf (exec (.replyid 0x9C123456) idle)).map (·.id) = some 0x1C125634 := by decide
/-- V-I13b and V-I13c. -/
theorem test_msgtype : (resultOf (exec (.msgtype 0x1E81F03F) idle)).map (·.mt) = some 0x0281F03F ∧
    (resultOf (exec (.msgtype 0xFFFFFFFF) idle)).map (·.mt) = some 0x03FFFFFF := by decide
/-- V-I17. -/
theorem test_encframe_len7 :
    (resultOf (exec (.encframe 1 2 3 4 ⟨0x11, 0x22, 0x33, 0x44, 0x55, 0x66, 0x77, 0x88⟩ 7) idle)).map
      (fun r => (r.id, r.ide, r.rlen, r.rp)) =
    some (0x01030201, true, 7, ⟨0x11, 0x22, 0x33, 0x44, 0x55, 0x66, 0x77, 0x00⟩) := by decide
/-- V-I15: a length of 255 truncates. -/
theorem test_encframe_len255 :
    (resultOf (exec (.encframe 1 2 3 4 ⟨0x11, 0x22, 0x33, 0x44, 0x55, 0x66, 0x77, 0x88⟩ 255) idle)).map
      (fun r => (r.st, r.rlen, r.rp)) =
    some (.ok, 8, ⟨0x11, 0x22, 0x33, 0x44, 0x55, 0x66, 0x77, 0x88⟩) := by decide
/-- S3, step 1. -/
theorem test_encvc : (resultOf (exec (.encvc 230500 16200) idle)).map (fun r => (r.rp, r.rlen)) =
    some (⟨0x00, 0x03, 0x84, 0x64, 0x00, 0x00, 0x3F, 0x48⟩, 8) := by decide
/-- V-P5. -/
theorem test_decvc : (resultOf (exec (.decvc ⟨1, 2, 3, 4, 5, 6, 7, 8⟩) idle)).map (fun r => (r.volt, r.cur)) =
    some (0x01020304, 0x05060708) := by decide
/-- V-P8a. -/
theorem test_decstat : (resultOf (exec (.decstat ⟨0xAA, 0xBB, 0x07, 0xCC, 0x30, 0x81, 0x42, 0x18⟩) idle)).map
    (fun r => (r.group, r.temp, r.s2, r.s0, r.s1)) = some (0x07, 0x30, 0x81, 0x42, 0x18) := by decide
/-- V-P8b. -/
theorem test_statusCondition : statusCondition 0x81 0 = true ∧ statusCondition 0x81 7 = true ∧ statusCondition 0x81 1 = false ∧
    statusCondition 0x42 6 = true := by decide
/-- V-P13. -/
theorem test_deccount : (resultOf (exec (.deccount ⟨0xAA, 0xBB, 0x07, 0xCC, 0x30, 0x81, 0x42, 0x18⟩) idle)).map (·.count) =
    some 0x07 := by decide
/-- V-P9 and V-P10, in a machine whose RUNSTATE_LEN is 3. -/
theorem test_encrun : (resultOf (exec (.encrun true) idle)).map (fun r => (r.rp, r.rlen)) = some (Payload.zero, 3) ∧
    (resultOf (exec (.encrun false) idle)).map (fun r => (r.rp, r.rlen)) = some (⟨1, 0, 0, 0, 0, 0, 0, 0⟩, 3) := by decide
/-- V-M2: the error code passes into EXP_ID, not into EXP_MT. -/
theorem test_issue : (matcherOf (exec (.issue 0x0A813FF0) completed)).map (fun m => (m.state, m.expId, m.expMt, m.respLen)) =
    some (.issued, 0x0A81F03F, 0x0281F03F, 4) := by decide
/-- V-M8. -/
theorem test_consume : (resultOf (exec .consume completed)).map (fun r => (r.st, r.rp, r.rlen, r.err, r.known)) =
      some (.ok, ⟨1, 2, 3, 4, 5, 6, 7, 8⟩, 4, 6, false) ∧
    (matcherOf (exec .consume completed)).map (·.state) = some .idle := by decide
/-- V-M10. -/
theorem test_consume_issued : (resultOf (exec .consume issued)).map (·.st) = some .notReady ∧
    matcherOf (exec .consume issued) = some issuedRegs := by decide
/-- V-M12. -/
theorem test_mstat : (resultOf (exec .mstat issued)).map (fun r => (r.mst, r.id, r.mt, r.rlen, r.err)) =
    some (1, 0x0281F03F, 0x0281F03F, 4, 6) := by decide
/-- V-M3 with V-M7: another error code matches in Issued, and does not match in Completed. -/
theorem test_rxframe : (matcherOf (exec (.rxframe (frame 0x0A81F03F)) issued)).map (fun m => (m.state, m.respErr, m.respLen)) =
      some (.completed, 2, 8) ∧
    matcherOf (exec (.rxframe (frame 0x0A81F03F)) completed) = completed.matcher := by decide
/-- V-M4: without the extended flag a frame never matches. -/
theorem test_rxframe_standard : matcherOf (exec (.rxframe { frame 0x0281F03F with ide := false }) issued) = some issuedRegs := by
  decide
/-- V-X4, V-X6. -/
theorem test_illegal : (resultOf (step (issued.withFetchWord 8 0x81))).map (·.st) = some .illegal ∧
    (resultOf (step (noMatcher.withFetchWord 8 0x0C))).map (·.st) = some .illegal := by decide
/-- V-RS1. -/
theorem test_reset : (matcherOf (step { completed with inputs := [.reset someDraw] })).map
    (fun m => (m.state, m.expId, m.expMt, m.respLen, m.respErr)) = some (.idle, 0x00123456, 0x00123456, 3, 6) := by decide
/-- The first step after reset runs what is presented. -/
theorem test_first_step : (resultOf (step (State.reset.withFetchWord 8 0x0E))).map (fun r => (r.st, r.mst)) = some (.ok, 0) := by
  decide

/-! ### Witnesses: states and operands that meet the hypotheses of the statements -/

theorem witness_ResetStepLoadsTheDraws : ∃ s : State, s.inputs = [.reset someDraw] ∧ s.matcher ≠ none :=
  ⟨{ completed with inputs := [.reset someDraw] }, by decide⟩

theorem witness_StepRunsTheDecodedInstruction :
    (∃ (s : State) (p : Presented) (i : Instr), decode p = some i ∧ s.inputs = [inputOf p]) ∧
    (∃ (s : State) (c : Command) (f : Frame) (i : Instr), decode (.command c) = some i ∧ s.inputs = [.simultaneous c f false]) ∧
    (∃ (s : State) (c : Command) (f : Frame), s.inputs = [.simultaneous c f true]) ∧ (∃ s : State, s.inputs = []) :=
  ⟨⟨{ issued with inputs := [.command ⟨0x0D, someOps⟩] }, .command ⟨0x0D, someOps⟩, .consume, by decide⟩,
   ⟨{ issued with inputs := [.simultaneous ⟨0x0D, someOps⟩ (frame 1) false] }, ⟨0x0D, someOps⟩, frame 1, .consume, by decide⟩,
   ⟨{ issued with inputs := [.simultaneous ⟨0x0D, someOps⟩ (frame 1) true] }, ⟨0x0D, someOps⟩, frame 1, by decide⟩,
   ⟨issued, by decide⟩⟩

/-- Both sides of every clause: the reserved words 0, 15, 16, 255, the matcher's words 12 and 14 without
it, and the words 1, 11, and with the matcher 12 and 14. -/
theorem witness_IllegalAnswersExactlyReservedWords :
    (∀ w ∈ [0x00#8, 0x0F#8, 0x10#8, 0xFF#8],
      (resultOf (step { issued with inputs := [.command ⟨w, someOps⟩] })).map (·.st) = some .illegal) ∧
    (∀ w ∈ [0x0C#8, 0x0E#8],
      (resultOf (step { noMatcher with inputs := [.command ⟨w, someOps⟩] })).map (·.st) = some .illegal) ∧
    (∀ w ∈ [0x01#8, 0x0B#8, 0x0C#8, 0x0E#8],
      (resultOf (step { issued with inputs := [.command ⟨w, someOps⟩] })).map (·.st) = some .ok) := by decide

theorem witness_SimultaneousPresentationAdmitsBothOrders : ∃ (s : State) (m : Matcher) (o : Operands) (f : Frame),
    s.matcher = some m ∧ f.ide = true ∧ msgType f.id = msgType (reply (readIdent o.id)) :=
  ⟨idle, { issuedRegs with state := .idle }, someOps, frame 0x0A81F03F, by decide⟩

/-- The three statuses, each in a state of the machine. -/
theorem witness_EveryOtherOperationEndsOk :
    (resultOf (exec .mstat noMatcher)).map (·.st) = some .illegal ∧ (resultOf (exec .consume idle)).map (·.st) = some .notReady ∧
    (resultOf (exec .consume completed)).map (·.st) = some .ok := by decide

/-- An identifier with error code 0 beside one with another. -/
theorem witness_PackAndUnpackAreInverse : (resultOf (exec (.unpackid 0x02813FF0) idle)).map (·.err) = some 0 ∧
    (resultOf (exec (.unpackid 0x0A81F03F) idle)).map (·.err) = some 2 := by decide

theorem witness_MessageTypeIgnoresTheErrorCode : ∃ a b : Word, a ≠ b ∧ a.toNat % 2 ^ 26 = b.toNat % 2 ^ 26 :=
  ⟨0x1E81F03F, 0x0681F03F, by decide⟩

theorem witness_CodecIsAFunctionOfItsOperands : ∃ (i : Instr) (s s' : State),
    i.existsIn false = true ∧ (∀ f, i ≠ .rxframe f) ∧ s.runStateLen = s'.runStateLen ∧ s ≠ s' :=
  ⟨.encrun true, completed, noMatcher, by decide, by simp, by decide, by decide⟩

theorem witness_IssueArmsTheMatcher : ∃ (s : State) (m : Matcher), s.matcher = some m ∧ m.state = .completed :=
  ⟨completed, { issuedRegs with state := .completed }, by decide⟩

/-- A frame that matches in Issued by message-type, one that matches in Idle by identifier, and the
frames that do not. -/
theorem witness_RxframeCapturesWhatMatches :
    (∃ (f : Frame) (s : State) (m : Matcher), s.matcher = some m ∧ f.ide = true ∧ m.state = .issued ∧
      f.id.toNat % 2 ^ 26 = m.expMt.toNat ∧ f.id ≠ m.expId) ∧
    (∃ (f : Frame) (s : State) (m : Matcher), s.matcher = some m ∧ f.ide = true ∧ m.state ≠ .issued ∧ f.id = m.expId) ∧
    (∃ (f : Frame) (s : State) (m : Matcher), s.matcher = some m ∧
      ¬ (f.ide = true ∧ ((m.state = .issued ∧ f.id.toNat % 2 ^ 26 = m.expMt.toNat) ∨ (m.state ≠ .issued ∧ f.id = m.expId)))) :=
  ⟨⟨frame 0x0A81F03F, issued, issuedRegs, by decide⟩,
   ⟨frame 0x0281F03F, idle, { issuedRegs with state := .idle }, by decide⟩,
   ⟨frame 0x0A81F03F, idle, { issuedRegs with state := .idle }, by decide⟩⟩

theorem witness_UnmatchedFrameChangesNothing :
    (stateOf (exec (.rxframe (frame 0x0282F03F)) issued)).map (·.response) = some (.matched false) := by decide

theorem witness_ConsumeTakesTheReply : (∃ (s : State) (m : Matcher), s.matcher = some m ∧ m.state = .completed) ∧
    (∃ (s : State) (m : Matcher), s.matcher = some m ∧ m.state ≠ .completed) :=
  ⟨⟨completed, { issuedRegs with state := .completed }, by decide⟩, ⟨issued, issuedRegs, by decide⟩⟩

/-- Each of the four states. -/
theorem witness_MstatReadsTheRegisters : ∀ st ∈ [MatchState.idle, .issued, .completed, .failed],
    ∃ (s : State) (m : Matcher), s.matcher = some m ∧ m.state = st := by
  intro st _
  exact ⟨withRegs { issuedRegs with state := st }, _, rfl, rfl⟩

theorem witness_WithoutTheMatcherItsOperationsAreIllegal : ∃ s : State, s.matcher = none ∧ Instr.consume.existsIn false = false :=
  ⟨noMatcher, by decide⟩

/-- For the three columns of RXFRAME, in each state that tests them. -/
theorem witness_TransitionTableHolds : ∃ (s : State) (m : Matcher), s.matcher = some m ∧ m.expMt = msgType m.expId ∧
    m.state = .issued ∧ (frame 0x0281F03F).id = m.expId ∧ (frame 0x0A81F03F).id.toNat % 2 ^ 26 = m.expMt.toNat ∧
    (frame 0x0282F03F).id.toNat % 2 ^ 26 ≠ m.expMt.toNat :=
  ⟨issued, issuedRegs, by decide⟩

/-- `cmpl` rises at a match, falls at CONSUME and at ISSUE. -/
theorem witness_CmplRisesOnMatchAndFallsOnConsumeOrIssue : issued.cmpl = false ∧ completed.cmpl = true ∧
    (stateOf (exec (.rxframe (frame 0x0281F03F)) issued)).map State.cmpl = some true ∧
    (stateOf (exec .consume completed)).map State.cmpl = some false ∧
    (stateOf (exec (.issue 5) completed)).map State.cmpl = some false := by decide

/-- Each of the three steps changes the matcher somewhere. -/
theorem witness_OnlyThreeStepsChangeState : matcherOf (exec (.issue 5) issued) ≠ issued.matcher ∧
    matcherOf (exec .consume completed) ≠ completed.matcher ∧
    matcherOf (exec (.rxframe (frame 0x0281F03F)) issued) ≠ issued.matcher := by decide

theorem witness_CapturedReplyStaysUntilTheNextMatch : ∃ (s : State) (m : Matcher), s.matcher = some m ∧
    (stateOf (exec (.rxframe (frame 0x0281F03F)) s)).map (·.response) = some (.matched true) ∧
    (stateOf (exec (.issue 5) s)).map (·.response) ≠ some (.matched true) :=
  ⟨completed, { issuedRegs with state := .completed }, by decide⟩

theorem witness_CapturedReplyDoesNotSteerTheMatcher : ∃ (s s' : State) (m m' : Matcher), s.matcher = some m ∧ s'.matcher = some m' ∧
    s.runStateLen = s'.runStateLen ∧ m.state = m'.state ∧ m.expId = m'.expId ∧ m.expMt = m'.expMt ∧ m.resp ≠ m'.resp :=
  ⟨issued, withRegs { issuedRegs with resp := Payload.zero }, issuedRegs, { issuedRegs with resp := Payload.zero }, by decide⟩

theorem issued_inv : ({ issued with inputs := [.receive (frame 0x0281F03F)] } : State).Inv where
  matcher := by
    intro m h
    obtain rfl : issuedRegs = m := by simpa [issued, withRegs] using h
    exact ⟨by decide, by decide⟩
  response := by
    intro r h
    simp [issued, withRegs] at h
  matched := by
    intro h
    simp [issued, withRegs] at h
  runStateLen := by decide

/-- A state with a reply to come, whose step matches it. -/
theorem witness_EveryStepKeepsTheInvariant : ∃ s t : State, s.Inv ∧ step s = .next t ∧ t.cmpl = true :=
  ⟨_, _, issued_inv, rfl, by decide⟩

/-- A reset, an ISSUE and its reply: a run of two steps from reset. -/
theorem witness_RunsFromResetKeepTheRegistersSound : ∃ (s t : State) (m : Matcher),
    run 2 (s.takeReset someDraw) = .next t ∧ t.matcher = some m ∧ m.state = .completed :=
  ⟨{ idle with inputs := [.command ⟨0x0C, someOps⟩, .receive (frame 0x0A81F03F)] }, _, _, rfl, rfl, by decide⟩

theorem witness_ParametersNeverChange : ∃ s t : State, run 1 s = .next t ∧ t ≠ s :=
  ⟨{ issued with inputs := [.command ⟨0x0C, someOps⟩] }, _, rfl, by decide⟩

theorem witness_EveryStepKeepsProgramsLegal : ∃ s t : State,
    s.inputs ≠ [] ∧ (∀ x ∈ s.inputs, Input.legal s.hasMatcher x = true) ∧ s.answeredIllegal = false ∧ step s = .next t :=
  ⟨{ issued with inputs := [.command ⟨0x0C, someOps⟩] }, _, by decide, by decide, by decide, rfl⟩

theorem witness_LegalProgramsNeverSeeIllegal : ∃ s t : State,
    (∀ x ∈ s.inputs, Input.legal s.hasMatcher x = true) ∧ s.answeredIllegal = false ∧ run 2 s = .next t ∧ t.inputs = [] :=
  ⟨{ issued with inputs := [.command ⟨0x0C, someOps⟩, .command ⟨0x01, someOps⟩] }, _, by decide, by decide, rfl, by decide⟩

/-- Harmless inputs before the reply is taken; a frame equal to `EXP_ID`. -/
theorem witness_CapturedReplyIsSafeUntilOverwritten : ∃ (s : State) (m : Matcher), s.matcher = some m ∧ m.state = .completed ∧
    (∀ x ∈ [Input.command ⟨0x0E, someOps⟩, .command ⟨0x0F, someOps⟩, .receive (frame 0x0A81F03F)],
      (∃ c, x = .command c ∧ c.word ≠ 0x0C#8 ∧ c.word ≠ 0x0D#8) ∨
        (∃ f, x = .receive f ∧ ¬ (f.ide = true ∧ f.id = m.expId))) ∧
    (frame 0x0281F03F).ide = true ∧ (frame 0x0281F03F).id = m.expId :=
  ⟨completed, { issuedRegs with state := .completed }, by decide, by decide, by
    intro x h
    simp only [List.mem_cons, List.not_mem_nil, or_false] at h
    rcases h with rfl | rfl | rfl
    · exact .inl ⟨_, rfl, by decide, by decide⟩
    · exact .inl ⟨_, rfl, by decide, by decide⟩
    · exact .inr ⟨_, rfl, by decide⟩, by decide, by decide⟩

/-- The input beside a poll by MSTAT, in the order of the Bool. -/
def polled (id : Ident) (receiveFirst : Bool) : Input := .simultaneous ⟨0x0E, someOps⟩ (frame id) receiveFirst

/-- A stray frame and a reserved word before the reply, the reply with an error code at the same time as a
poll, a frame with the same message-type but another identifier after it; and, for the last clause, a
frame equal to the expected identifier. -/
theorem witness_DispatchObservesTheFirstMatchingReply :
    ∃ (s : State) (m : Matcher) (id : Word) (before after : List Input) (x y : Input) (f g : Frame),
    s.matcher = some m ∧ before ≠ [] ∧ after ≠ [] ∧ (∀ z ∈ before ++ x :: (after ++ [y]), z.duringWait = true) ∧
    (∀ z ∈ before, ∀ g, z.frame? = some g → ¬ (g.ide = true ∧ msgType g.id = msgType (reply (readIdent id)))) ∧
    x.frame? = some f ∧ (f.ide = true ∧ msgType f.id = msgType (reply (readIdent id))) ∧
    (∀ z ∈ after, ∀ g, z.frame? = some g → ¬ (g.ide = true ∧ g.id = reply (readIdent id))) ∧
    y.frame? = some g ∧ g.ide = true ∧ g.id = reply (readIdent id) :=
  ⟨completed, { issuedRegs with state := .completed }, 0x02813FF0, [.receive (frame 0x02813FF0), .command ⟨0x0F, someOps⟩],
   [.receive (frame 0x0E81F03F)], polled 0x0A81F03F true, polled 0x0281F03F false, frame 0x0A81F03F, frame 0x0281F03F,
   by decide, by simp, by simp, by decide, by simp [Input.frame?, frame]; decide, rfl, by decide,
   by simp [Input.frame?, frame]; decide, rfl, rfl, by decide⟩

/-- What a dispatch may see that does not complete it. -/
def stray : List Input := [.receive (frame 0x02813FF0), .command ⟨0x0E, someOps⟩]

theorem stray_duringWait : ∀ y ∈ stray, y.duringWait = true := by decide

theorem stray_unmatched : ∀ y ∈ stray, ∀ g, y.frame? = some g →
    ¬ (g.ide = true ∧ msgType g.id = msgType (reply (readIdent 0x02813FF0))) := by
  simp [stray, Input.frame?, frame]; decide

theorem witness_TimedOutDispatchLeavesIssued : ∃ (s : State) (m : Matcher) (id : Word) (during : List Input) (late : Frame),
    s.matcher = some m ∧ during ≠ [] ∧ (∀ y ∈ during, y.duringWait = true) ∧
    (∀ y ∈ during, ∀ g, y.frame? = some g → ¬ (g.ide = true ∧ msgType g.id = msgType (reply (readIdent id)))) ∧
    late.ide = true ∧ msgType late.id = msgType (reply (readIdent id)) :=
  ⟨idle, { issuedRegs with state := .idle }, 0x02813FF0, stray, frame 0x0281F03F, rfl, by decide, stray_duringWait,
   stray_unmatched, by decide⟩

/-- Program Q3: the two requests may differ in their error code only. -/
theorem witness_LateReplyCompletesTheNextDispatch :
    ∃ (s : State) (m : Matcher) (first second : Word) (during later : List Input) (x : Input) (late : Frame),
    s.matcher = some m ∧ msgType (reply (readIdent first)) = msgType (reply (readIdent second)) ∧ first ≠ second ∧
    (∀ y ∈ during, y.duringWait = true) ∧ (∀ y ∈ x :: later, y.duringWait = true) ∧
    (∀ y ∈ during, ∀ g, y.frame? = some g → ¬ (g.ide = true ∧ msgType g.id = msgType (reply (readIdent first)))) ∧
    x.frame? = some late ∧ (late.ide = true ∧ msgType late.id = msgType (reply (readIdent first))) ∧ later ≠ [] ∧
    (∀ y ∈ later, ∀ g, y.frame? = some g → ¬ (g.ide = true ∧ g.id = reply (readIdent second))) :=
  ⟨idle, { issuedRegs with state := .idle }, 0x02813FF0, 0x0A813FF0, stray, [.receive (frame 0x0281F03F)],
   polled 0x0281F03F false, frame 0x0281F03F, rfl, by decide, by decide, stray_duringWait, by decide, stray_unmatched, rfl,
   by decide, by decide, by simp [Input.frame?, frame]; decide⟩

theorem witness_ReplyBeforeIssueTimesOut : ∃ (s : State) (m : Matcher) (id : Word) (early : Frame) (during : List Input),
    s.matcher = some m ∧ msgType early.id = msgType (reply (readIdent id)) ∧ during ≠ [] ∧
    (∀ y ∈ during, y.duringWait = true) ∧
    (∀ y ∈ during, ∀ g, y.frame? = some g → ¬ (g.ide = true ∧ msgType g.id = msgType (reply (readIdent id)))) :=
  ⟨idle, { issuedRegs with state := .idle }, 0x02813FF0, frame 0x0281F03F, stray, rfl, by decide, by decide,
   stray_duringWait, stray_unmatched⟩

/-- The moves of the two runs of the review: an ISSUE beside its reply, CONSUME, the next ISSUE. From
Completed, with the reply taken first, CONSUME is NOTREADY and the second ISSUE breaks R108. -/
def issueBesideReply (receiveFirst : Bool) : List HostMove :=
  [.present (.simultaneous ⟨0x0C, someOps⟩ (frame 0x0281F03F) receiveFirst), .present (instrInput .consume),
   .present (instrInput (.issue 5))]

theorem test_singleFlight : singleFlight false idle (issueBesideReply false) = true ∧
    singleFlight false completed (issueBesideReply true) = false := by decide

/-- A CONSUME beside the reply it takes ends the dispatch, if the reply goes first. -/
theorem test_ends : (HostMove.present (.simultaneous ⟨0x0D, someOps⟩ (frame 0x0281F03F) true)).ends issued = true ∧
    (HostMove.present (.simultaneous ⟨0x0D, someOps⟩ (frame 0x0281F03F) false)).ends issued = false := by decide

/-- Both halves of a presentation are performed in one move, and nothing of it is left. -/
theorem witness_HostMovesAreARunOfTheBlock :
    (hostRun idle [.present (polled 0x0281F03F false), .timeout]).cmpl = true ∧
    (hostRun idle [.present (polled 0x0281F03F false), .timeout]).inputs = [] := by decide

theorem witness_SecondIssueNeedsTheDispatchEnded : ∃ (x y : HostMove) (between : List HostMove),
    x.issued ≠ none ∧ y.issued ≠ none ∧ between ≠ [] ∧ (∀ z ∈ between, z.issued = none) ∧
    singleFlight false idle (x :: between ++ [y]) = true ∧ singleFlight false idle [x, y] = false :=
  ⟨.present (instrInput (.issue 5)), .present (instrInput (.issue 6)), [.send 5, .timeout], by decide⟩

theorem witness_DispatchMovesKeepTheHostDuties : ∃ xs ys : List Input, xs ≠ [] ∧ ∀ y ∈ xs ++ ys, y.duringWait = true :=
  ⟨stray, [polled 0x0281F03F true], by decide⟩

theorem witness_AnyErrorCodeCompletesTheDispatch : ∃ (s : State) (m : Matcher) (f g : Frame), s.matcher = some m ∧
    m.state = .issued ∧ f.ide = g.ide ∧ f.id.toNat % 2 ^ 26 = g.id.toNat % 2 ^ 26 ∧ f.id ≠ g.id ∧ m.accepts f = true :=
  ⟨issued, issuedRegs, frame 0x0281F03F, frame 0x1E81F03F, by decide⟩

theorem witness_DispatchNeverFails : ∃ s : State, s.matcher = none := ⟨noMatcher, by decide⟩

theorem witness_DecodeAndEncodeAgree : ∃ (c : Command) (i : Instr), decode (.command c) = some i ∧ encode i ≠ .command c :=
  ⟨⟨0x0D, someOps⟩, .consume, by decide⟩

/-- Both ends of the reserved words, and the words next to them. -/
theorem witness_OperationMapHolds : word 0x00 = none ∧ word 0x01 ≠ none ∧ word 0x0E ≠ none ∧ word 0x0F = none ∧
    word 0xFF = none := by decide

theorem witness_UnlistedOperandsAreIgnored : ∃ (w : Byte) (o o' : Operands), o.readBy w = o'.readBy w ∧ o ≠ o' :=
  ⟨0x01, someOps, { someOps with v := 0, len := 9 }, by decide⟩

/-- Values at the ends of their ranges, on both sides, for each clause. -/
theorem witness_AssemblerRefusesWideValues :
    assemble (.packid 255 255 63 15) ≠ none ∧ assemble (.packid 255 255 64 15) = none ∧
    assemble (.issue (2 ^ 32 - 1)) ≠ none ∧ assemble (.issue (2 ^ 32)) = none ∧
    assemble (.encvc (2 ^ 32 - 1) 0) ≠ none ∧ assemble (.encvc 0 (2 ^ 32)) = none ∧
    assemble (.encrun 1) ≠ none ∧ assemble (.encrun 2) = none := by decide

theorem witness_AssemblerRefusesWidePayloads :
    assemble (.encframe 255 255 63 15 [1, 2, 3, 4, 5, 6, 7, 255] 255) ≠ none ∧
    assemble (.encframe 0 0 0 0 [1, 2, 3, 4, 5, 6, 7, 8] 256) = none ∧
    assemble (.decvc [1, 2, 3, 4, 5, 6, 7, 255]) ≠ none ∧ assemble (.decvc [1, 2, 3, 4, 5, 6, 7, 256]) = none ∧
    assemble (.decstat [1, 2, 3, 4, 5, 6, 7]) = none ∧
    assemble (.rx (2 ^ 29 - 1) 1 15 [1, 2, 3, 4, 5, 6, 7, 255]) ≠ none ∧
    assemble (.rx (2 ^ 29) 1 15 [1, 2, 3, 4, 5, 6, 7, 255]) = none := by decide

end Sys2Proof.Tests
end

section
/-! PROOFS. The scope of the block (00_scope.md): what a step takes, and what no run changes. -/

namespace Sys2Proof.Machine

/-- To apply the lemmas about a step with `inputs` written out to a state known to present them. -/
theorem step_eq_of_inputs {s : State} {xs : List Input} (h : s.inputs = xs) :
    step s = step { s with inputs := xs } := by
  subst h; rfl

theorem step_nothing {s : State} (h : s.inputs = []) : step s = .next s := by
  simp [step, fetch, h]

theorem performWith_decode {p : Presented} {i : Instr} (h : decode p = some i)
    (meaning : Instr → State → Host.Outcome State Fault Refusal) (s : State) :
    performWith meaning p s = meaning i s := by
  simp [performWith, h]

theorem step_inputOf (s : State) (p : Presented) (rest : List Input) :
    step { s with inputs := inputOf p :: rest } = performWith exec p { s with inputs := rest } := by
  cases p <;> rfl

/-- What every step keeps, every run keeps. -/
theorem run_keeps {P : State → Prop} (hstep : ∀ s t, P s → step s = .next t → P t) {s t : State} {n : Nat}
    (hs : P s) (h : run n s = .next t) : P t := by
  induction n generalizing s with
  | zero => cases h; exact hs
  | succ n ih =>
    obtain ⟨u, hu⟩ := step_next s
    exact ih (hstep s u hs hu) ((run_succ hu n).symm.trans h)

/-- The two parameters that are data of the state (00_scope.md R9) are the same in both states. -/
def State.SameParameters (s t : State) : Prop :=
  t.runStateLen = s.runStateLen ∧ t.hasMatcher = s.hasMatcher

theorem step_sameParameters {s t : State} (h : step s = .next t) : s.SameParameters t := by
  rcases step_cases s with ⟨_, hs⟩ | ⟨d, rest, _, hs⟩ | ⟨p, rest, i, _, hs⟩ | ⟨p, rest, _, hs⟩ <;> rw [hs] at h
  · cases h; exact ⟨rfl, rfl⟩
  · cases h; exact ⟨rfl, by simp [State.hasMatcher]⟩
  · obtain ⟨u, hu, hlen, -, hmatcher⟩ := exec_next i { s with inputs := rest }
    cases hu.symm.trans h
    exact ⟨hlen, hmatcher⟩
  · cases h; exact ⟨rfl, rfl⟩

/-- Settles O40: every step keeps the parameters, so every run does. -/
theorem parametersNeverChange : Obligations.ParametersNeverChange := by
  intro s t n h
  refine run_keeps (P := s.SameParameters) ?_ ⟨rfl, rfl⟩ h
  rintro u v ⟨hlen, hmatcher⟩ hstep
  obtain ⟨hlen', hmatcher'⟩ := step_sameParameters hstep
  exact ⟨hlen'.trans hlen, hmatcher'.trans hmatcher⟩

/-- Settles O3: a simultaneous presentation steps as the one that goes first, presented before the other. -/
theorem stepRunsTheDecodedInstruction : Obligations.StepRunsTheDecodedInstruction := by
  refine fun s rest => ⟨fun p i hd h => ?_, fun c f i hd h => ?_, fun c f h => ?_, fun h => ?_⟩
  · rw [step_eq_of_inputs h, step_inputOf, performWith_decode hd]
  · rw [step_eq_of_inputs h, step_commandFirst, step_command, performWith_decode hd]
  · rw [step_eq_of_inputs h, step_frameFirst, step_receive, exec]
  · exact step_nothing h

end Sys2Proof.Machine
end

section
/-! PROOFS. The state of the block (10_state.md): everything an instruction can do, said once (`Effect`), and from
it what the codec leaves alone, when `cmpl` changes, what the captured reply keeps, and the invariant. -/

namespace Sys2Proof.Machine

/-! ### Sound results and registers -/

theorem identWord_lt (x : Ident) : (identWord x).toNat < 2 ^ 29 := identWord_toNat x ▸ x.isLt

theorem msgTypeWord_lt (x : MsgType) : (msgTypeWord x).toNat < 2 ^ 26 := msgTypeWord_toNat x ▸ x.isLt

theorem Result.zero_sound : Result.zero.Sound where
  id := by decide
  mt := by decide
  quiet _ := rfl
  mst := by decide

theorem Result.only_sound (x : Status) : (Result.only x).Sound where
  id := Result.zero_sound.id
  mt := Result.zero_sound.mt
  quiet _ := rfl
  mst := Result.zero_sound.mst

/-- The result fields an OK answer has to keep in their ranges (30_encoding.md R51, 42_matcher.md R85). One that
the operation does not write is 0, and need not be spoken of. -/
theorem Result.sound_of_ok {r : Result} (hok : r.st = .ok)
    (hid : r.id.toNat < 2 ^ 29 := by exact Result.zero_sound.id)
    (hmt : r.mt.toNat < 2 ^ 26 := by exact Result.zero_sound.mt)
    (hmst : r.mst ≠ 3 := by exact Result.zero_sound.mst) : r.Sound where
  id := hid
  mt := hmt
  quiet h := absurd hok h
  mst := hmst

theorem Matcher.arm_sound (m : Matcher) (id : Ident) : (m.arm id).Sound := ⟨rfl, nofun⟩

theorem resetMatcher_sound (d : ResetDraw) : (resetMatcher d).Sound := ⟨rfl, nofun⟩

theorem Matcher.Sound.capture {m : Matcher} (h : m.Sound) (f : Frame) : (m.capture f).Sound := ⟨h.mt, nofun⟩

theorem Matcher.Sound.release {m : Matcher} (h : m.Sound) : m.release.Sound := ⟨h.mt, nofun⟩

theorem MatchState.code_ne_three {x : MatchState} (h : x ≠ .failed) : x.code ≠ 3 := by
  cases x with
  | failed => exact absurd rfl h
  | idle | issued | completed => decide

/-- The matcher's registers, where the block has them, are sound: `State.Inv.matcher` by itself. -/
def State.RegistersSound (s : State) : Prop := ∀ m, s.matcher = some m → m.Sound

theorem registersSound_of_some {s : State} {m : Matcher} (h : s.matcher = some m) (hm : m.Sound) :
    s.RegistersSound := by
  intro m' h'
  cases h.symm.trans h'
  exact hm

theorem takeReset_registersSound (s : State) (d : ResetDraw) : (s.takeReset d).RegistersSound := by
  intro m h
  obtain ⟨_, _, rfl⟩ := Option.map_eq_some_iff.mp h
  exact resetMatcher_sound d

/-! ### What an instruction can do -/

/-- A codec operation answers OK with a result that RUNSTATE_LEN and its operands determine. -/
theorem exec_codec {i : Instr} (hi : i.existsIn false = true) (hrx : ∀ f, i ≠ .rxframe f) (len : BitVec 4) :
    ∃ r : Result, (∀ s : State, s.runStateLen = len → exec i s = .next (s.answer r)) ∧ r.st = .ok ∧ r.Sound := by
  cases i with
  | issue | consume | mstat => cases hi
  | rxframe f => exact absurd rfl (hrx f)
  | packid | replyid | encframe =>
    exact ⟨_, fun _ _ => rfl, rfl, Result.sound_of_ok rfl (hid := identWord_lt _)⟩
  | msgtype => exact ⟨_, fun _ _ => rfl, rfl, Result.sound_of_ok rfl (hmt := msgTypeWord_lt _)⟩
  | unpackid | errcode | encvc | decvc | decstat | deccount =>
    exact ⟨_, fun _ _ => rfl, rfl, Result.sound_of_ok rfl⟩
  | encrun en =>
    refine ⟨{ Result.zero with rp := { Payload.zero with b0 := runStateByte en }, rlen := len }, ?_, rfl,
      Result.sound_of_ok rfl⟩
    rintro s rfl
    rfl

/-- Everything an instruction can do: `Effect s i t` says how `t` comes of performing `i` in `s`. -/
inductive Effect (s : State) : Instr → State → Prop where
  /-- A codec operation answers OK and does nothing else (10_state.md R14). -/
  | codec {i : Instr} {r : Result} (hi : i.existsIn false = true) (hrx : ∀ f, i ≠ .rxframe f) (hok : r.st = .ok)
      (hr : r.Sound) : Effect s i (s.answer r)
  /-- The matcher's operations are illegal without it (42_matcher.md R78). -/
  | illegal {i : Instr} (hm : s.matcher = none) (hi : i.existsIn false = false) : Effect s i s.answerIllegal
  /-- ISSUE (42_matcher.md R79). -/
  | arm {m : Matcher} (id : Word) (hm : s.matcher = some m) :
      Effect s (.issue id) ((s.setMatcher (m.arm (readIdent id))).answer Result.zero)
  /-- CONSUME with a reply to take (42_matcher.md R84). -/
  | release {m : Matcher} (hm : s.matcher = some m) (hc : m.state = .completed) :
      Effect s .consume ((s.setMatcher m.release).answer { Result.zero with
        rp := m.resp, rlen := m.respLen, err := m.respErr, known := known m.respErr })
  /-- CONSUME with none (60_exceptions.md R92). -/
  | notReady {m : Matcher} (hm : s.matcher = some m) (hc : m.state ≠ .completed) : Effect s .consume s.answerNotReady
  /-- MSTAT (42_matcher.md R85). -/
  | read {m : Matcher} (hm : s.matcher = some m) :
      Effect s .mstat (s.answer { Result.zero with
        mst := m.state.code, id := identWord m.expId, mt := msgTypeWord m.expMt, rp := m.resp, rlen := m.respLen,
        err := m.respErr })
  /-- A matching receive event (42_matcher.md R81). -/
  | capture {m : Matcher} {f : Frame} (hm : s.matcher = some m) (ha : m.accepts f = true) :
      Effect s (.rxframe f) ((s.setMatcher (m.capture f)).answerRx true)
  /-- A receive event that matches nothing (42_matcher.md R78, R83). -/
  | ignore (f : Frame) (ha : ∀ m, s.matcher = some m → m.accepts f = false) : Effect s (.rxframe f) (s.answerRx false)

theorem exec_effect_of_codec {i : Instr} (hi : i.existsIn false = true) (hrx : ∀ f, i ≠ .rxframe f) (s : State) :
    ∃ t, exec i s = .next t ∧ Effect s i t := by
  obtain ⟨r, hexec, hok, hr⟩ := exec_codec hi hrx s.runStateLen
  exact ⟨_, hexec s rfl, .codec hi hrx hok hr⟩

theorem exec_effect_of_none {i : Instr} {s : State} (hm : s.matcher = none) (hi : i.existsIn false = false) :
    ∃ t, exec i s = .next t ∧ Effect s i t := by
  refine ⟨_, ?_, .illegal hm hi⟩
  cases i with
  | issue | consume | mstat => exact congrArg Host.Outcome.next (ifMatcher_none hm _)
  | _ => cases hi

theorem exec_effect_rxframe (f : Frame) (s : State) :
    ∃ t, exec (.rxframe f) s = .next t ∧ Effect s (.rxframe f) t := by
  cases hm : s.matcher with
  | none => exact ⟨_, by simp [exec, execRxframe, hm], .ignore f (by simp [hm])⟩
  | some m =>
    rw [exec, execRxframe_some hm]
    cases ha : m.accepts f with
    | true => exact ⟨_, rfl, .capture hm ha⟩
    | false => exact ⟨_, rfl, .ignore f (by simp [hm, ha])⟩

theorem exec_effect_consume {s : State} {m : Matcher} (hm : s.matcher = some m) :
    ∃ t, exec .consume s = .next t ∧ Effect s .consume t := by
  rw [exec, execConsume, ifMatcher_some hm]
  by_cases hc : m.state = .completed
  · exact ⟨_, by rw [if_pos hc], .release hm hc⟩
  · exact ⟨_, by rw [if_neg hc], .notReady hm hc⟩

/-- Every instruction completes, in one of the ways of `Effect`. -/
theorem exec_effect (i : Instr) (s : State) : ∃ t, exec i s = .next t ∧ Effect s i t := by
  cases hm : s.matcher with
  | none =>
    cases i with
    | issue | consume | mstat => exact exec_effect_of_none hm rfl
    | rxframe f => exact exec_effect_rxframe f s
    | _ => exact exec_effect_of_codec rfl (by simp) s
  | some m =>
    cases i with
    | issue id => exact ⟨_, congrArg Host.Outcome.next (ifMatcher_some hm _), .arm id hm⟩
    | consume => exact exec_effect_consume hm
    | mstat => exact ⟨_, congrArg Host.Outcome.next (ifMatcher_some hm _), .read hm⟩
    | rxframe f => exact exec_effect_rxframe f s
    | _ => exact exec_effect_of_codec rfl (by simp) s

theorem effect_of_exec {i : Instr} {s t : State} (h : exec i s = .next t) : Effect s i t := by
  obtain ⟨u, hu, he⟩ := exec_effect i s
  cases hu.symm.trans h
  exact he

/-! ### What an instruction keeps -/

theorem State.cmpl_iff (s : State) : s.cmpl = true ↔ ∃ m, s.matcher = some m ∧ m.state = .completed := by
  cases h : s.matcher with
  | none => simp [cmpl_none h]
  | some m => simp [cmpl_some h]

/-- `cmpl` is raised by a match, dropped by ISSUE or a CONSUME that ends OK, and otherwise left as it was; an
ISSUE or CONSUME that leaves it finds it 0. -/
theorem Effect.cmpl_cases {i : Instr} {s t : State} (he : Effect s i t) :
    (t.response = .matched true ∧ t.cmpl = true ∧ ∃ f, i = .rxframe f) ∨
    (t.response ≠ .matched true ∧ t.cmpl = false ∧
      ((∃ id, i = .issue id) ∨ (i = .consume ∧ ∃ r, t.response = .result r ∧ r.st = .ok))) ∨
    (t.response ≠ .matched true ∧ t.cmpl = s.cmpl ∧ ((∃ id, i = .issue id) ∨ i = .consume → s.cmpl = false)) := by
  cases he with
  | capture => exact .inl ⟨rfl, rfl, _, rfl⟩
  | arm id => exact .inr (.inl ⟨nofun, rfl, .inl ⟨id, rfl⟩⟩)
  | release => exact .inr (.inl ⟨nofun, rfl, .inr ⟨rfl, _, rfl, rfl⟩⟩)
  | illegal hm => exact .inr (.inr ⟨nofun, rfl, fun _ => cmpl_none hm⟩)
  | notReady hm hc => exact .inr (.inr ⟨nofun, rfl, fun _ => by simpa using mt (cmpl_some hm).mp hc⟩)
  | read | ignore => exact .inr (.inr ⟨by simp, rfl, by simp⟩)
  | codec hi =>
    refine .inr (.inr ⟨nofun, rfl, ?_⟩)
    rintro (⟨id, rfl⟩ | rfl) <;> cases hi

theorem Effect.registersSound {i : Instr} {s t : State} (he : Effect s i t) (hs : s.RegistersSound) :
    t.RegistersSound := by
  cases he with
  | codec | illegal | notReady | read | ignore => exact hs
  | arm id => exact registersSound_of_some rfl (Matcher.arm_sound _ _)
  | release hm => exact registersSound_of_some rfl (hs _ hm).release
  | capture hm => exact registersSound_of_some rfl ((hs _ hm).capture _)

theorem Effect.result_sound {i : Instr} {s t : State} (he : Effect s i t) (hs : s.RegistersSound) {r : Result}
    (h : t.response = .result r) : r.Sound := by
  cases he with
  | codec _ _ _ hr => cases h; exact hr
  | illegal | arm | notReady => cases h; exact Result.only_sound _
  | release => cases h; exact Result.sound_of_ok rfl
  | read hm =>
    cases h
    exact Result.sound_of_ok rfl (identWord_lt _) (msgTypeWord_lt _) (MatchState.code_ne_three (hs _ hm).reachable)
  | capture | ignore => cases h

/-- What a reset, an ILLEGAL answer and every instruction keep, whatever is presented later, every step keeps. -/
theorem step_keeps {P : State → Prop} (hinputs : ∀ s xs, P s → P { s with inputs := xs })
    (hreset : ∀ s d, P s → P (s.takeReset d)) (hillegal : ∀ s, P s → P s.answerIllegal)
    (heffect : ∀ i s t, P s → Effect s i t → P t) {s t : State} (hs : P s) (h : step s = .next t) : P t := by
  rcases step_cases s with ⟨_, hstep⟩ | ⟨d, rest, _, hstep⟩ | ⟨p, rest, i, _, hstep⟩ | ⟨p, rest, _, hstep⟩ <;>
    rw [hstep] at h
  · cases h; exact hs
  · cases h; exact hreset _ d (hinputs s rest hs)
  · exact heffect i _ t (hinputs s rest hs) (effect_of_exec h)
  · cases h; exact hillegal _ (hinputs s rest hs)

theorem step_registersSound {s t : State} (hs : s.RegistersSound) (h : step s = .next t) : t.RegistersSound :=
  step_keeps (P := State.RegistersSound) (fun _ _ hs => hs) (fun s d _ => takeReset_registersSound s d)
    (fun _ hs => hs) (fun _ _ _ hs he => he.registersSound hs) hs h

/-! ### The invariant -/

/-- A state that shows a result meets the invariant when its parts do; `rx.matched` says nothing of it. -/
theorem inv_of_result {s : State} {r : Result} (hs : s.RegistersSound) (hlen : legalRunStateLen s.runStateLen = true)
    (h : s.response = .result r) (hr : r.Sound) : s.Inv where
  matcher := hs
  response r' h' := by cases h.symm.trans h'; exact hr
  matched h' := by cases h.symm.trans h'
  runStateLen := hlen

theorem State.Inv.withInputs {s : State} (hs : s.Inv) (xs : List Input) : ({ s with inputs := xs } : State).Inv :=
  ⟨hs.matcher, hs.response, hs.matched, hs.runStateLen⟩

theorem Effect.runStateLen {i : Instr} {s t : State} (he : Effect s i t) : t.runStateLen = s.runStateLen := by
  cases he <;> rfl

theorem Effect.inv {i : Instr} {s t : State} (he : Effect s i t) (hs : s.Inv) : t.Inv where
  matcher := he.registersSound hs.matcher
  response _ h := he.result_sound hs.matcher h
  matched h := by
    rcases he.cmpl_cases with ⟨_, hcmpl, _⟩ | ⟨hne, _⟩ | ⟨hne, _⟩
    · exact hcmpl
    · exact absurd h hne
    · exact absurd h hne
  runStateLen := he.runStateLen ▸ hs.runStateLen

/-- Settles O38: a reset and an ILLEGAL answer meet the invariant by what they write, an instruction by each of its
effects. -/
theorem everyStepKeepsTheInvariant : Obligations.EveryStepKeepsTheInvariant := by
  intro s t hs h
  refine step_keeps (P := State.Inv) ?_ ?_ ?_ ?_ hs h
  · exact fun _ xs hs => hs.withInputs xs
  · exact fun s d hs => inv_of_result (takeReset_registersSound s d) hs.runStateLen rfl (Result.only_sound .ok)
  · exact fun _ hs => inv_of_result hs.matcher hs.runStateLen rfl (Result.only_sound .illegal)
  · exact fun _ _ _ hs he => he.inv hs

/-- Settles O39: a reset makes the registers sound in any machine, also one whose RUNSTATE_LEN is not legal, and
every step keeps them so. -/
theorem runsFromResetKeepTheRegistersSound : Obligations.RunsFromResetKeepTheRegistersSound := by
  intro s t d n m hrun hm
  have hsound : t.RegistersSound :=
    run_keeps (fun _ _ => step_registersSound) (takeReset_registersSound s d) hrun
  obtain ⟨hmt, hreachable⟩ := hsound m hm
  exact ⟨hreachable, by rw [hmt, msgType_toNat]⟩

/-! ### `cmpl`, the captured reply, the codec -/

/-- Settles O34, from the three things an instruction can do to `cmpl`. -/
theorem cmplRisesOnMatchAndFallsOnConsumeOrIssue : Obligations.CmplRisesOnMatchAndFallsOnConsumeOrIssue := by
  intro i s
  refine ⟨s.cmpl_iff, ?_⟩
  obtain ⟨t, ht, he⟩ := exec_effect i s
  refine ⟨t, ht, ?_⟩
  rcases he.cmpl_cases with ⟨hresp, hcmpl, f, rfl⟩ | ⟨hne, hcmpl, hi⟩ | ⟨hne, hcmpl, hzero⟩
  · simp [hresp, hcmpl]
  · simp [hne, hcmpl, hi]
  · refine ⟨fun h => absurd h hne, fun h0 h1 => ?_, fun h1 h0 => ?_, fun hi => ?_, fun id hi => ?_⟩
    · cases h1.symm.trans (hcmpl.trans h0)
    · cases h0.symm.trans (hcmpl.trans h1)
    · exact hcmpl.trans (hzero (.inr hi))
    · exact hcmpl.trans (hzero (.inl ⟨id, hi⟩))

/-- Settles O36: ISSUE writes the expectation and leaves the reply, CONSUME writes `STATE` alone, a match writes the
reply, and every other effect leaves the registers. -/
theorem capturedReplyStaysUntilTheNextMatch : Obligations.CapturedReplyStaysUntilTheNextMatch := by
  intro i s m hm
  obtain ⟨t, ht, he⟩ := exec_effect i s
  refine ⟨t, ?_⟩
  cases he with
  | codec | illegal | notReady | read | ignore =>
    exact ⟨m, ht, hm, fun _ => ⟨rfl, rfl, rfl⟩, by simp, fun _ => ⟨rfl, rfl⟩⟩
  | arm id hm' =>
    cases hm.symm.trans hm'
    exact ⟨_, ht, rfl, fun _ => ⟨rfl, rfl, rfl⟩, nofun, fun h => absurd rfl (h id)⟩
  | release hm' =>
    cases hm.symm.trans hm'
    exact ⟨_, ht, rfl, fun _ => ⟨rfl, rfl, rfl⟩, nofun, fun _ => ⟨rfl, rfl⟩⟩
  | capture hm' =>
    cases hm.symm.trans hm'
    exact ⟨_, ht, rfl, fun h => absurd rfl h, fun _ => ⟨_, rfl, rfl, rfl, errField_toNat _⟩, fun _ => ⟨rfl, rfl⟩⟩

/-- Settles O26: one result serves both states. -/
theorem codecIsAFunctionOfItsOperands : Obligations.CodecIsAFunctionOfItsOperands := by
  intro i s s' hi hrx hlen
  obtain ⟨r, hexec, hok, _⟩ := exec_codec hi hrx s.runStateLen
  exact ⟨r, hok, hexec s rfl, hexec s' hlen.symm⟩

end Sys2Proof.Machine
end

section
/-! PROOFS. The storage of the block (20_memory.md): the fields of a payload's 64-bit view, and which steps change
the matcher's registers. -/

namespace Sys2Proof.Machine

/-! ### The 64-bit view -/

/-- The 64-bit view is the two 32-bit fields, the one at byte 0 first. -/
theorem be64_eq_be32_append (p : Payload) : be64 p = be32 p.b0 p.b1 p.b2 p.b3 ++ be32 p.b4 p.b5 p.b6 p.b7 := by
  apply BitVec.eq_of_toNat_eq
  rw [be64_toNat, append_toNat, be32_toNat, be32_toNat]
  omega

theorem be64_extract_payloadByte (p : Payload) (i : Fin 8) :
    (be64 p).extractLsb' (8 * (7 - i.val)) 8 = payloadByte p i := by
  apply be64_byte
  rw [be64_toNat]
  fin_cases i <;> simp only [payloadByte] <;> omega

/-- Settles O24: the words are the halves of the view, the bytes its digits to the base 256. -/
theorem wordAndByteFieldsAgreeWithTheView : Obligations.WordAndByteFieldsAgreeWithTheView := by
  intro p
  refine ⟨?_, ?_, be64_extract_payloadByte p⟩
  · rw [be64_eq_be32_append, BitVec.extractLsb'_append_eq_left]
  · rw [be64_eq_be32_append, BitVec.extractLsb'_append_eq_right]

/-! ### Which steps change registers -/

theorem Effect.cases_of_matcher_ne {i : Instr} {s t : State} (he : Effect s i t) (h : t.matcher ≠ s.matcher) :
    (∃ id, i = .issue id) ∨ (i = .consume ∧ s.cmpl = true) ∨ t.response = .matched true := by
  cases he with
  | codec | illegal | notReady | read | ignore => exact absurd rfl h
  | arm id => exact .inl ⟨id, rfl⟩
  | release hm hc => exact .inr (.inl ⟨rfl, (cmpl_some hm).mpr hc⟩)
  | capture => exact .inr (.inr rfl)

theorem exec_consume_notReady {s : State} {m : Matcher} (hm : s.matcher = some m) (hc : m.state ≠ .completed) :
    exec .consume s = .next s.answerNotReady := by
  rw [exec, execConsume, ifMatcher_some hm, if_neg hc]

/-- A CONSUME that takes the reply leaves Idle, where the second finds none. -/
theorem Effect.consume_again {s t : State} (he : Effect s .consume t) (h : s.cmpl = true) :
    exec .consume t = .next t.answerNotReady := by
  obtain ⟨m, hm, hc⟩ := s.cmpl_iff.mp h
  cases he with
  | release => exact exec_consume_notReady rfl nofun
  | notReady hm' hc' => exact absurd ((cmpl_some hm').mp h) hc'
  | illegal hm' => cases hm.symm.trans hm'
  | codec hi => cases hi

theorem exec_idempotent_of_codec {i : Instr} (hi : i.existsIn false = true) (hrx : ∀ f, i ≠ .rxframe f) {s t : State}
    (h : exec i s = .next t) : exec i t = .next t := by
  obtain ⟨r, hexec, -⟩ := exec_codec hi hrx s.runStateLen
  cases (hexec s rfl).symm.trans h
  exact hexec (s.answer r) rfl

theorem exec_illegal_of_none {i : Instr} {s : State} (hm : s.matcher = none) (hi : i.existsIn false = false) :
    exec i s = .next s.answerIllegal := by
  cases i with
  | issue | consume | mstat => exact congrArg Host.Outcome.next (ifMatcher_none hm _)
  | _ => cases hi

/-- An operation other than CONSUME presented twice answers the same and leaves the same state: the writes of ISSUE
do not depend on what they overwrite, and MSTAT and the codec write no register. -/
theorem exec_idempotent {i : Instr} (hconsume : i ≠ .consume) (hrx : ∀ f, i ≠ .rxframe f) {s t : State}
    (h : exec i s = .next t) : exec i t = .next t := by
  cases effect_of_exec h with
  | codec hi => exact exec_idempotent_of_codec hi hrx h
  | illegal hm hi => exact exec_illegal_of_none hm hi
  | @arm m id => exact congrArg Host.Outcome.next (ifMatcher_some (m := m.arm (readIdent id)) rfl _)
  | read hm => exact congrArg Host.Outcome.next (ifMatcher_some hm _)
  | release | notReady => exact absurd rfl hconsume
  | capture | ignore => exact absurd rfl (hrx _)

/-- Settles O35: by the effect that changes the registers, by idempotence, and by the reply a second CONSUME misses. -/
theorem onlyThreeStepsChangeState : Obligations.OnlyThreeStepsChangeState := by
  intro i s
  obtain ⟨t, ht, he⟩ := exec_effect i s
  obtain ⟨u, hu, _⟩ := exec_effect i t
  refine ⟨t, u, ht, hu, he.cases_of_matcher_ne, fun hconsume hrx => ?_, fun hi hcmpl => ?_⟩
  · cases hu.symm.trans (exec_idempotent hconsume hrx ht)
    rfl
  · subst hi
    cases hu.symm.trans (he.consume_again hcmpl)
    rfl

end Sys2Proof.Machine
end

section
/-! PROOFS. The encoding (30_encoding.md): the command word and the decoder, the values the assembler refuses and
carries, and the dispatch procedure as a run of the block. -/

namespace Sys2Proof

/-! ### The command word and the decoder -/

theorem opField_toNat (w : Byte) : (opField w).toNat = w.toNat % 16 := by
  simp [opField]

theorem rsvField_toNat (w : Byte) : (rsvField w).toNat = w.toNat / 16 := by
  have := w.isLt
  simp [rsvField, Nat.shiftRight_eq_div_pow]
  omega

theorem rsvField_eq_zero_iff (w : Byte) : rsvField w = 0 ↔ w.toNat < 16 := by
  have := rsvField_toNat w
  bv_omega

/-- A command word whose RSV field is 0 is its operation code (30_encoding.md R47). -/
theorem opField_setWidth {w : Byte} (h : rsvField w = 0) : (opField w).setWidth 8 = w := by
  have := (rsvField_eq_zero_iff w).mp h
  have := opField_toNat w
  bv_omega

/-- What decodes to an instruction has RSV 0 and an operation code that names it. -/
theorem decodeCommand_eq_some_iff {c : Command} {i : Instr} :
    decodeCommand c = some i ↔ rsvField c.word = 0 ∧ decodeOp c.ops (opField c.word) = some i := by
  simp [decodeCommand]

/-- A command word with RSV 0 decodes by its operation code. -/
theorem decode_setWidth (op : BitVec 4) (o : Operands) :
    decode (.command { word := op.setWidth 8, ops := o }) = decodeOp o op := by
  have hrsv : rsvField (op.setWidth 8) = 0 := by
    have := op.isLt
    rw [rsvField_eq_zero_iff]
    bv_omega
  have hop : opField (op.setWidth 8) = op := by
    have := opField_toNat (op.setWidth 8)
    bv_omega
  rw [decode, decodeCommand, if_pos hrsv, hop]

theorem decode_encode (i : Instr) : decode (encode i) = some i := by
  cases i with
  | rxframe => rfl
  | packid => exact decode_setWidth 0x1#4 _
  | unpackid => exact decode_setWidth 0x2#4 _
  | errcode => exact decode_setWidth 0x3#4 _
  | replyid => exact decode_setWidth 0x4#4 _
  | msgtype => exact decode_setWidth 0x5#4 _
  | encframe => exact decode_setWidth 0x6#4 _
  | encvc => exact decode_setWidth 0x7#4 _
  | decvc => exact decode_setWidth 0x8#4 _
  | decstat => exact decode_setWidth 0x9#4 _
  | deccount => exact decode_setWidth 0xA#4 _
  | encrun => exact decode_setWidth 0xB#4 _
  | issue => exact decode_setWidth 0xC#4 _
  | consume => exact decode_setWidth 0xD#4 _
  | mstat => exact decode_setWidth 0xE#4 _

/-- An operation code that names an instruction is the code of that instruction's encoding. -/
theorem encode_of_decodeOp {o : Operands} {op : BitVec 4} {i : Instr} (h : decodeOp o op = some i) :
    encode i = .command { word := op.setWidth 8, ops := o.readBy (op.setWidth 8) } := by
  unfold decodeOp at h
  split at h <;> cases h <;> rfl

theorem encode_of_decode_command {c : Command} {i : Instr} (h : decode (.command c) = some i) :
    encode i = .command { c with ops := c.ops.readBy c.word } := by
  obtain ⟨hrsv, hop⟩ := decodeCommand_eq_some_iff.mp h
  rw [encode_of_decodeOp hop, opField_setWidth hrsv]

/-- Settles O55: by cases on the instruction, and on the operation code that named it. -/
theorem decodeAndEncodeAgree : Obligations.DecodeAndEncodeAgree := by
  refine ⟨decode_encode, fun c i h => encode_of_decode_command h, fun f i h => ?_⟩
  cases h
  rfl

theorem decodeOp_readBy (o : Operands) (op : BitVec 4) : decodeOp (o.readBy (op.setWidth 8)) op = decodeOp o op := by
  unfold decodeOp
  split <;> rfl

/-- The decoder reads no operand field but those listed for the command word (30_encoding.md R49). -/
theorem decode_readBy (w : Byte) (o : Operands) :
    decode (.command { word := w, ops := o.readBy w }) = decode (.command { word := w, ops := o }) := by
  by_cases hrsv : rsvField w = 0
  · obtain ⟨op, rfl⟩ : ∃ op : BitVec 4, op.setWidth 8 = w := ⟨_, opField_setWidth hrsv⟩
    rw [decode_setWidth, decode_setWidth, decodeOp_readBy]
  · exact (if_neg hrsv).trans (if_neg hrsv).symm

theorem decode_reserved {w : Byte} (h : w.toNat = 0 ∨ 15 ≤ w.toNat) (o : Operands) :
    decode (.command { word := w, ops := o }) = none := by
  by_cases hrsv : rsvField w = 0
  · have hw : w = 0x00#8 ∨ w = 0x0F#8 := by
      have := (rsvField_eq_zero_iff w).mp hrsv
      bv_omega
    rcases hw with rfl | rfl
    · exact decode_setWidth 0x0#4 o
    · exact decode_setWidth 0xF#4 o
  · exact if_neg hrsv

theorem existsIn_eq_false_iff (i : Instr) (hasMatcher : Bool) :
    i.existsIn hasMatcher = false ↔ hasMatcher = false ∧ ((∃ id, i = .issue id) ∨ i = .consume ∨ i = .mstat) := by
  cases i with
  | issue | consume | mstat => simp [Instr.existsIn]
  | _ => simp [Instr.existsIn]

/-- Settles O59: each operation's word by its code, the reserved words by their fields. -/
theorem operationMapHolds : Obligations.OperationMapHolds :=
  ⟨fun o => ⟨decode_setWidth 0x1#4 o, decode_setWidth 0x2#4 o, decode_setWidth 0x3#4 o, decode_setWidth 0x4#4 o,
      decode_setWidth 0x5#4 o, decode_setWidth 0x6#4 o, decode_setWidth 0x7#4 o, decode_setWidth 0x8#4 o,
      decode_setWidth 0x9#4 o, decode_setWidth 0xA#4 o, decode_setWidth 0xB#4 o, decode_setWidth 0xC#4 o,
      decode_setWidth 0xD#4 o, decode_setWidth 0xE#4 o, fun _ h => decode_reserved h o⟩,
    fun _ => rfl, existsIn_eq_false_iff⟩

/-- Settles O60: seven closed words. -/
theorem tableWordsDecodeToTheirInstructions : Obligations.TableWordsDecodeToTheirInstructions := by
  unfold Obligations.TableWordsDecodeToTheirInstructions
  decide

/-! ### The assembler -/

theorem fitsField_iff {n v : Nat} : fitsField n v = true ↔ v < 2 ^ n := decide_eq_true_iff

theorem not_fitsField_iff {n v : Nat} : ¬ fitsField n v = true ↔ 2 ^ n ≤ v := by
  rw [fitsField_iff, Nat.not_lt]

/-- A value that fits its field is carried whole (30_encoding.md R49). -/
theorem ofNat_toNat_of_fits {n v : Nat} (h : fitsField n v = true) : (BitVec.ofNat n v).toNat = v := by
  rw [BitVec.toNat_ofNat, Nat.mod_eq_of_lt (fitsField_iff.mp h)]

theorem toNat_beq_one_of_fits {v : Nat} (h : fitsField 1 v = true) : (v == 1).toNat = v := by
  have := fitsField_iff.mp h
  interval_cases v <;> rfl

theorem fitsPayload_iff {data : List Nat} :
    fitsPayload data = true ↔ data.length = 8 ∧ ∀ b ∈ data, b < 256 := by
  simp [fitsPayload, fitsField_iff]

theorem not_fitsPayload_iff {data : List Nat} :
    ¬ fitsPayload data = true ↔ data.length ≠ 8 ∨ ∃ b ∈ data, 256 ≤ b := by
  rw [fitsPayload_iff, not_and_or]
  simp

theorem payloadOfList_eq_payloadOf (data : List Nat) :
    payloadOfList data = Machine.payloadOf fun i => BitVec.ofNat 8 (data.getD i.val 0) := rfl

/-- A payload that fits is carried whole, byte by byte. -/
theorem payloadByte_payloadOfList {data : List Nat} (h : fitsPayload data = true) (i : Fin 8) :
    data[i.val]? = some (Machine.payloadByte (payloadOfList data) i).toNat := by
  obtain ⟨hlen, hbytes⟩ := fitsPayload_iff.mp h
  have hi : i.val < data.length := i.isLt.trans_eq hlen.symm
  have hbyte : fitsField 8 data[i.val] = true := fitsField_iff.mpr (hbytes _ (List.getElem_mem hi))
  rw [payloadOfList_eq_payloadOf, Machine.payloadByte_payloadOf, List.getD_eq_getElem _ _ hi, ofNat_toNat_of_fits hbyte,
    List.getElem?_eq_getElem hi]

/-- What is refused is exactly what does not fit. -/
theorem assemble_eq_none_iff {x : Source} : assemble x = none ↔ ¬ x.fits = true := by
  simp [assemble]

/-- What is not refused fits, and is the presentation of the instruction it names. -/
theorem assemble_eq_some_iff {x : Source} {p : Presented} :
    assemble x = some p ↔ x.fits = true ∧ encode x.toInstr = p := by
  simp [assemble]

theorem decode_of_assemble {x : Source} {p : Presented} (h : assemble x = some p) :
    x.fits = true ∧ decode p = some x.toInstr := by
  obtain ⟨hfits, rfl⟩ := assemble_eq_some_iff.mp h
  exact ⟨hfits, decode_encode _⟩

/-- The operations whose one operand is a 32-bit word. -/
theorem assemble_word (source : Nat → Source) (instr : Word → Instr) (v : Nat)
    (hfits : (source v).fits = fitsField 32 v) (hinstr : (source v).toInstr = instr (.ofNat 32 v)) :
    (assemble (source v) = none ↔ 2 ^ 32 ≤ v) ∧
      ∀ p, assemble (source v) = some p → ∃ a, decode p = some (instr a) ∧ a.toNat = v := by
  refine ⟨by rw [assemble_eq_none_iff, hfits, not_fitsField_iff], fun p hp => ?_⟩
  obtain ⟨hv, hp⟩ := decode_of_assemble hp
  exact ⟨_, hp.trans (congrArg some hinstr), ofNat_toNat_of_fits (hfits ▸ hv)⟩

/-- The operations whose one operand is a payload. -/
theorem assemble_payload (source : List Nat → Source) (instr : Payload → Instr) (data : List Nat)
    (hfits : (source data).fits = fitsPayload data) (hinstr : (source data).toInstr = instr (payloadOfList data)) :
    (assemble (source data) = none ↔ data.length ≠ 8 ∨ ∃ b ∈ data, 256 ≤ b) ∧
      ∀ p, assemble (source data) = some p → ∃ q, decode p = some (instr q) ∧
        ∀ i : Fin 8, data[i.val]? = some (Machine.payloadByte q i).toNat := by
  refine ⟨by rw [assemble_eq_none_iff, hfits, not_fitsPayload_iff], fun p hp => ?_⟩
  obtain ⟨hdata, hp⟩ := decode_of_assemble hp
  exact ⟨_, hp.trans (congrArg some hinstr), payloadByte_payloadOfList (hfits ▸ hdata)⟩

theorem assemble_packid (src dst cmd dev : Nat) :
    (assemble (.packid src dst cmd dev) = none ↔ 256 ≤ src ∨ 256 ≤ dst ∨ 64 ≤ cmd ∨ 16 ≤ dev) ∧
      ∀ p, assemble (.packid src dst cmd dev) = some p → ∃ a b c d, decode p = some (.packid a b c d) ∧
        a.toNat = src ∧ b.toNat = dst ∧ c.toNat = cmd ∧ d.toNat = dev := by
  refine ⟨?_, fun p hp => ?_⟩
  · simp only [assemble_eq_none_iff, Source.fits, Bool.and_eq_true, not_and_or, not_fitsField_iff, Nat.reducePow,
      or_assoc]
  · obtain ⟨hfits, hp⟩ := decode_of_assemble hp
    simp only [Source.fits, Bool.and_eq_true] at hfits
    obtain ⟨⟨⟨hsrc, hdst⟩, hcmd⟩, hdev⟩ := hfits
    exact ⟨_, _, _, _, hp, ofNat_toNat_of_fits hsrc, ofNat_toNat_of_fits hdst, ofNat_toNat_of_fits hcmd,
      ofNat_toNat_of_fits hdev⟩

theorem assemble_encvc (v c : Nat) :
    (assemble (.encvc v c) = none ↔ 2 ^ 32 ≤ v ∨ 2 ^ 32 ≤ c) ∧
      ∀ p, assemble (.encvc v c) = some p → ∃ a b, decode p = some (.encvc a b) ∧ a.toNat = v ∧ b.toNat = c := by
  refine ⟨?_, fun p hp => ?_⟩
  · simp only [assemble_eq_none_iff, Source.fits, Bool.and_eq_true, not_and_or, not_fitsField_iff, Nat.reducePow]
  · obtain ⟨hfits, hp⟩ := decode_of_assemble hp
    obtain ⟨hv, hc⟩ := Bool.and_eq_true_iff.mp hfits
    exact ⟨_, _, hp, ofNat_toNat_of_fits hv, ofNat_toNat_of_fits hc⟩

theorem assemble_encrun (en : Nat) :
    (assemble (.encrun en) = none ↔ 2 ≤ en) ∧
      ∀ p, assemble (.encrun en) = some p → ∃ a, decode p = some (.encrun a) ∧ a.toNat = en := by
  refine ⟨?_, fun p hp => ?_⟩
  · rw [assemble_eq_none_iff, Source.fits, not_fitsField_iff, Nat.pow_one]
  · obtain ⟨hfits, hp⟩ := decode_of_assemble hp
    exact ⟨_, hp, toNat_beq_one_of_fits hfits⟩

theorem assemble_encframe (src dst cmd dev len : Nat) (data : List Nat) :
    (assemble (.encframe src dst cmd dev data len) = none ↔
      256 ≤ src ∨ 256 ≤ dst ∨ 64 ≤ cmd ∨ 16 ≤ dev ∨ 256 ≤ len ∨ data.length ≠ 8 ∨ ∃ b ∈ data, 256 ≤ b) ∧
      ∀ p, assemble (.encframe src dst cmd dev data len) = some p → ∃ a b c d q n,
        decode p = some (.encframe a b c d q n) ∧ a.toNat = src ∧ b.toNat = dst ∧ c.toNat = cmd ∧ d.toNat = dev ∧
        n.toNat = len ∧ ∀ i : Fin 8, data[i.val]? = some (Machine.payloadByte q i).toNat := by
  refine ⟨?_, fun p hp => ?_⟩
  · simp only [assemble_eq_none_iff, Source.fits, Bool.and_eq_true, not_and_or, not_fitsField_iff, not_fitsPayload_iff,
      Nat.reducePow, or_assoc, or_comm, or_left_comm]
  · obtain ⟨hfits, hp⟩ := decode_of_assemble hp
    simp only [Source.fits, Bool.and_eq_true] at hfits
    obtain ⟨⟨⟨⟨⟨hsrc, hdst⟩, hcmd⟩, hdev⟩, hdata⟩, hlen⟩ := hfits
    exact ⟨_, _, _, _, _, _, hp, ofNat_toNat_of_fits hsrc, ofNat_toNat_of_fits hdst, ofNat_toNat_of_fits hcmd,
      ofNat_toNat_of_fits hdev, ofNat_toNat_of_fits hlen, payloadByte_payloadOfList hdata⟩

/-- A receive event has no command word: what is not refused is the frame itself (30_encoding.md R52). -/
theorem assemble_rx (id ide dlc : Nat) (data : List Nat) :
    (assemble (.rx id ide dlc data) = none ↔
      2 ^ 29 ≤ id ∨ 2 ≤ ide ∨ 16 ≤ dlc ∨ data.length ≠ 8 ∨ ∃ b ∈ data, 256 ≤ b) ∧
      ∀ p, assemble (.rx id ide dlc data) = some p →
        ∃ f, p = .receive f ∧ f.id.toNat = id ∧ f.ide.toNat = ide ∧ f.dlc.toNat = dlc ∧
          ∀ i : Fin 8, data[i.val]? = some (Machine.payloadByte f.data i).toNat := by
  refine ⟨?_, fun p hp => ?_⟩
  · simp only [assemble_eq_none_iff, Source.fits, Bool.and_eq_true, not_and_or, not_fitsField_iff, not_fitsPayload_iff,
      Nat.reducePow, or_assoc]
  · obtain ⟨hfits, rfl⟩ := assemble_eq_some_iff.mp hp
    simp only [Source.fits, Bool.and_eq_true] at hfits
    obtain ⟨⟨⟨hid, hide⟩, hdlc⟩, hdata⟩ := hfits
    exact ⟨_, rfl, ofNat_toNat_of_fits hid, toNat_beq_one_of_fits hide, ofNat_toNat_of_fits hdlc,
      payloadByte_payloadOfList hdata⟩

/-- Settles O57: the operations with one word share `assemble_word`; CONSUME and MSTAT have nothing to refuse. -/
theorem assemblerRefusesWideValues : Obligations.AssemblerRefusesWideValues := by
  refine ⟨assemble_packid, fun id => ?_, assemble_encvc, assemble_encrun, ⟨_, rfl, rfl⟩, ⟨_, rfl, rfl⟩⟩
  obtain ⟨hunpackid, hunpackid'⟩ := assemble_word .unpackid .unpackid id rfl rfl
  obtain ⟨herrcode, herrcode'⟩ := assemble_word .errcode .errcode id rfl rfl
  obtain ⟨hreplyid, hreplyid'⟩ := assemble_word .replyid .replyid id rfl rfl
  obtain ⟨hmsgtype, hmsgtype'⟩ := assemble_word .msgtype .msgtype id rfl rfl
  obtain ⟨hissue, hissue'⟩ := assemble_word .issue .issue id rfl rfl
  exact ⟨hunpackid, herrcode, hreplyid, hmsgtype, hissue, hunpackid', herrcode', hreplyid', hmsgtype', hissue'⟩

/-- Settles O58: the decoders of a payload share `assemble_payload`. -/
theorem assemblerRefusesWidePayloads : Obligations.AssemblerRefusesWidePayloads := by
  refine ⟨assemble_encframe, fun data => ?_, assemble_rx⟩
  obtain ⟨hdecvc, hdecvc'⟩ := assemble_payload .decvc .decvc data rfl rfl
  obtain ⟨hdecstat, hdecstat'⟩ := assemble_payload .decstat .decstat data rfl rfl
  obtain ⟨hdeccount, hdeccount'⟩ := assemble_payload .deccount .deccount data rfl rfl
  exact ⟨hdecvc, hdecstat, hdeccount, hdecvc', hdecstat', hdeccount'⟩

end Sys2Proof

namespace Sys2Proof.Machine

/-! ### Unlisted operands -/

/-- What is performed depends on the presentation only through what it decodes to. -/
theorem performWith_congr {p q : Presented} (h : decode p = decode q)
    (meaning : Instr → State → Host.Outcome State Fault Refusal) (s : State) :
    performWith meaning p s = performWith meaning q s := by
  simp only [performWith, h]

/-- Settles O56: the two presentations decode alike, since the decoder reads only the listed fields. -/
theorem unlistedOperandsAreIgnored : Obligations.UnlistedOperandsAreIgnored := by
  intro s w o o' rest h
  rw [step_command, step_command]
  apply performWith_congr
  rw [← decode_readBy w o, h, decode_readBy]

/-! ### The dispatch procedure -/

theorem run_add {m : Nat} {s t : State} (h : run m s = .next t) (n : Nat) : run (m + n) s = run n t := by
  induction m generalizing s with
  | zero =>
    cases h
    rw [Nat.zero_add]
  | succ m ih =>
    obtain ⟨u, hu⟩ := step_next s
    rw [Nat.succ_add, run_succ hu]
    exact ih ((run_succ hu m).symm.trans h)

/-- Inputs are performed one after the other by as many steps as they have together. -/
theorem run_performAll (xs : List Input) (s : State) :
    run (xs.map Input.steps).sum { s with inputs := xs ++ s.inputs } = .next (performAll xs s) := by
  induction xs generalizing s with
  | nil => rfl
  | cons x xs ih =>
    have hx : run x.steps { s with inputs := x :: (xs ++ s.inputs) } =
        .next { perform x s with inputs := xs ++ (perform x s).inputs } := by
      obtain ⟨hperform, hinputs⟩ := perform_withInputs x s (xs ++ s.inputs)
      rw [hinputs, ← hperform]
      exact run_perform x { s with inputs := xs ++ s.inputs }
    rw [List.map_cons, List.sum_cons, List.cons_append, run_add hx, ih, performAll_cons]

/-- What a dispatch presents to the block: ISSUE, the inputs of the wait, and CONSUME if `cmpl` is then 1
(60_exceptions.md R102). -/
def dispatchInputs (id : Word) (during : List Input) (s : State) : List Input :=
  instrInput (.issue id) :: during ++ if (awaitReply id during s).cmpl = true then [instrInput .consume] else []

theorem performAll_dispatchInputs (id : Word) (during : List Input) (s : State) :
    performAll (dispatchInputs id during s) s = (dispatch id during s).1 := by
  have hawait : performAll (instrInput (.issue id) :: during) s = awaitReply id during s := rfl
  rw [dispatchInputs, performAll_append, hawait, dispatch]
  split <;> rfl

/-- Settles O50: a dispatch performs its inputs one after the other, and performing them is a run. -/
theorem dispatchIsARunOfTheBlock : Obligations.DispatchIsARunOfTheBlock := by
  intro s id during
  refine ⟨dispatchInputs id during s, rfl, ?_⟩
  rw [run_performAll, performAll_dispatchInputs]

end Sys2Proof.Machine
end

section
/-! PROOFS. The identifier and frame operations (40_identifier.md): the words they answer with as numbers, and what
packing, unpacking, replying and masking do to one another. -/

namespace Sys2Proof.Machine

/-! ### The result fields as numbers -/

theorem encodeIdent_toNat (dev : BitVec 4) (cmd : BitVec 6) (dst src : Byte) :
    (encodeIdent dev cmd dst src).toNat =
      dev.toNat * 2 ^ 22 + cmd.toNat * 2 ^ 16 + dst.toNat * 2 ^ 8 + src.toNat := by
  simp [encodeIdent, packIdent_toNat]

theorem readIdent_eq_pack (w : Word) :
    w.toNat % 2 ^ 29 =
      (errField (readIdent w)).toNat * 2 ^ 26 + (devField (readIdent w)).toNat * 2 ^ 22 +
        (cmdField (readIdent w)).toNat * 2 ^ 16 + (dstField (readIdent w)).toNat * 2 ^ 8 +
        (srcField (readIdent w)).toNat := by
  rw [← packIdent_toNat, packIdent_fields, readIdent_toNat]

theorem errField_readIdent_toNat (w : Word) : (errField (readIdent w)).toNat = w.toNat / 2 ^ 26 % 8 := by
  rw [errField_toNat, readIdent_toNat]
  omega

theorem identWord_reply_readIdent_toNat (w : Word) :
    (identWord (reply (readIdent w))).toNat =
      w.toNat / 2 ^ 16 % 2 ^ 13 * 2 ^ 16 + w.toNat % 2 ^ 8 * 2 ^ 8 + w.toNat / 2 ^ 8 % 2 ^ 8 := by
  rw [identWord_toNat, reply_toNat, readIdent_toNat]
  omega

theorem msgTypeWord_readIdent_toNat (w : Word) :
    (msgTypeWord (msgType (readIdent w))).toNat = w.toNat % 2 ^ 26 := by
  rw [msgTypeWord_toNat, msgType_toNat, readIdent_toNat]
  omega

theorem frameLength_le (len : Byte) : frameLength len ≤ 8 := Nat.min_le_right _ _

/-- The length of a frame fits `out.RLEN`. -/
theorem ofNat_frameLength_toNat (len : Byte) : (BitVec.ofNat 4 (frameLength len)).toNat = frameLength len := by
  have := frameLength_le len
  rw [BitVec.toNat_ofNat, Nat.mod_eq_of_lt (by omega)]

theorem payloadByte_keepFirst (n : Nat) (p : Payload) (i : Fin 8) :
    payloadByte (keepFirst n p) i = if i.val < n then payloadByte p i else 0 :=
  payloadByte_payloadOf _ i

/-! ### Packing, unpacking, replying -/

/-- Packing the fields of an identifier clears its error code. -/
theorem encodeIdent_fields_toNat (x : Ident) :
    (encodeIdent (devField x) (cmdField x) (dstField x) (srcField x)).toNat = x.toNat % 2 ^ 26 := by
  rw [encodeIdent_toNat, devField_toNat, cmdField_toNat, dstField_toNat, srcField_toNat]
  omega

theorem encodeIdent_fields_of_errField_eq_zero {x : Ident} (h : errField x = 0) :
    encodeIdent (devField x) (cmdField x) (dstField x) (srcField x) = x := by
  rw [encodeIdent, ← h, packIdent_fields]

/-- A reply has the addresses exchanged and the other fields kept. -/
theorem fields_reply (x : Ident) :
    errField (reply x) = errField x ∧ devField (reply x) = devField x ∧ cmdField (reply x) = cmdField x ∧
    dstField (reply x) = srcField x ∧ srcField (reply x) = dstField x := by
  rw [reply_eq_packIdent]
  exact fields_packIdent _ _ _ _ _

theorem reply_reply (x : Ident) : reply (reply x) = x := by
  obtain ⟨herr, hdev, hcmd, hdst, hsrc⟩ := fields_reply x
  rw [reply_eq_packIdent (reply x), herr, hdev, hcmd, hdst, hsrc, packIdent_fields]

/-! ### The obligations -/

/-- Settles O13: the fields of what was packed are those packed, and the identifier packed from its own fields is it
without its error code. -/
theorem packAndUnpackAreInverse : Obligations.PackAndUnpackAreInverse := by
  refine ⟨fun src dst cmd dev s => ⟨_, _, _, _, rfl, rfl, rfl, rfl, ?_⟩,
    fun id s => ⟨_, _, _, _, rfl, rfl, rfl, rfl, ?_, fun herr => ?_⟩⟩
  · rw [readIdent_identWord]
    exact fields_packIdent 0 dev cmd dst src
  · rw [identWord_toNat, encodeIdent_fields_toNat, readIdent_toNat]
    omega
  · rw [identWord_toNat, encodeIdent_fields_of_errField_eq_zero herr, readIdent_toNat]

/-- Settles O14: by the fields of a reply, which make replying its own inverse. -/
theorem replyOfReplyIsTheIdentifier : Obligations.ReplyOfReplyIsTheIdentifier := by
  intro id s
  refine ⟨_, _, _, _, _, _, _, _, rfl, rfl, rfl, rfl, ?_, rfl, rfl, rfl, rfl, ?_⟩
  · rw [readIdent_identWord, reply_reply, identWord_toNat, readIdent_toNat]
  · rw [readIdent_identWord]
    obtain ⟨herr, hdev, hcmd, hdst, hsrc⟩ := fields_reply (readIdent id)
    exact ⟨hdst, hsrc, herr, hdev, hcmd⟩

/-- Settles O15: the message-type is bits 25:0 of whatever word is given. -/
theorem messageTypeIgnoresTheErrorCode : Obligations.MessageTypeIgnoresTheErrorCode := by
  refine ⟨fun a b s h => ?_, fun a s => ⟨_, _, _, _, rfl, rfl, rfl, rfl, msgTypeWord_readIdent_toNat _⟩⟩
  have hmt : msgTypeWord (msgType (readIdent a)) = msgTypeWord (msgType (readIdent b)) := by
    apply BitVec.eq_of_toNat_eq
    rw [msgTypeWord_readIdent_toNat, msgTypeWord_readIdent_toNat, h]
  rw [exec, exec, execMsgtype, execMsgtype, hmt]

/-- Settles O7: the identifier PACKID packs has error code 0. -/
theorem packidPacksTheFields : Obligations.PackidPacksTheFields :=
  fun src dst cmd dev _ => ⟨_, rfl, (identWord_toNat _).trans (encodeIdent_toNat dev cmd dst src)⟩

/-- Settles O8: an identifier is packed from its fields. -/
theorem unpackidSplitsTheIdentifier : Obligations.UnpackidSplitsTheIdentifier :=
  fun id _ => ⟨_, _, _, _, _, rfl, readIdent_eq_pack id⟩

/-- Settles O9: by the classified codes of `known_iff`. -/
theorem errcodeClassifiesTheCode : Obligations.ErrcodeClassifiesTheCode :=
  fun id _ => ⟨_, _, rfl, errField_readIdent_toNat id, known_iff _⟩

/-- Settles O10: by the number a reply is. -/
theorem replyidSwapsSourceAndDestination : Obligations.ReplyidSwapsSourceAndDestination :=
  fun id _ => ⟨_, rfl, identWord_reply_readIdent_toNat id⟩

/-- Settles O11: the message-type as a number is the operand's low 26 bits. -/
theorem msgtypeMasksTheErrorCode : Obligations.MsgtypeMasksTheErrorCode :=
  fun id _ => ⟨_, rfl, msgTypeWord_readIdent_toNat id⟩

/-- Settles O12: the identifier is the one PACKID answers, the length is below 16, and the bytes are kept one by one. -/
theorem encframeBuildsTheFrame : Obligations.EncframeBuildsTheFrame :=
  fun src dst cmd dev p len _ => ⟨_, _, _, rfl, (identWord_toNat _).trans (encodeIdent_toNat dev cmd dst src),
    ofNat_frameLength_toNat len, payloadByte_keepFirst (frameLength len) p⟩

/-- Settles O16: the two operations pack one identifier. -/
theorem encframeIdentifierIsPackids : Obligations.EncframeIdentifierIsPackids := by
  intro src dst cmd dev p len s
  refine ⟨_, _, _, _, rfl, rfl, rfl, rfl, rfl, rfl, ?_⟩
  rw [ofNat_frameLength_toNat]
  exact frameLength_le len

end Sys2Proof.Machine
end

section
/-! PROOFS. The payload operations (41_payload.md): the words and bytes they move, as fields of the payload's 64-bit
view, and the test of a status condition. -/

namespace Sys2Proof.Machine

/-! ### Words and status bytes -/

theorem toNat_eq_wordBytes (w : Word) :
    w.toNat = (wordByte w 24).toNat * 2 ^ 24 + (wordByte w 16).toNat * 2 ^ 16 + (wordByte w 8).toNat * 2 ^ 8 +
      (wordByte w 0).toNat := by
  have := w.isLt
  simp only [wordByte_toNat]
  omega

/-- A word is the big-endian field of its four bytes. -/
theorem be32_wordByte (w : Word) : be32 (wordByte w 24) (wordByte w 16) (wordByte w 8) (wordByte w 0) = w :=
  BitVec.eq_of_toNat_eq ((be32_toNat ..).trans (toNat_eq_wordBytes w).symm)

theorem statusCondition_iff (b : Byte) (k : Fin 8) : statusCondition b k = true ↔ b.toNat / 2 ^ k.val % 2 = 1 := by
  have hbit : b.toNat / 2 ^ k.val % 2 = 1 ↔ b.getLsbD k.val = true := by
    rw [BitVec.getLsbD, Nat.testBit_eq_decide_div_mod_eq, decide_eq_true_iff]
  have hmask : ∀ j : Fin 8, BitVec.twoPow 8 j.val ≠ 0#8 := by decide
  rw [hbit, statusCondition, ← BitVec.twoPow_eq, BitVec.and_twoPow]
  cases b.getLsbD k.val <;> simp [hmask k]

/-! ### What the decoders read -/

/-- The bits of the 64-bit view that DECSTAT and DECCOUNT read are bytes 2, 4, 5, 6 and 7. -/
theorem be64_bytesRead (p : Payload) :
    (be64 p).extractLsb' 40 8 = p.b2 ∧ (be64 p).extractLsb' 24 8 = p.b4 ∧ (be64 p).extractLsb' 16 8 = p.b5 ∧
    (be64 p).extractLsb' 8 8 = p.b6 ∧ (be64 p).extractLsb' 0 8 = p.b7 :=
  ⟨be64_extract_payloadByte p 2, be64_extract_payloadByte p 4, be64_extract_payloadByte p 5,
    be64_extract_payloadByte p 6, be64_extract_payloadByte p 7⟩

theorem exec_decvc (p : Payload) (s : State) :
    exec (.decvc p) s = .next (s.answer { Result.zero with
      cur := be32 p.b4 p.b5 p.b6 p.b7, volt := be32 p.b0 p.b1 p.b2 p.b3 }) := by
  obtain ⟨hhigh, hlow, -⟩ := wordAndByteFieldsAgreeWithTheView p
  rw [exec, execDecvc, hhigh, hlow]

/-! ### The obligations -/

/-- Settles O19: every field read is a byte of the 64-bit view. -/
theorem decstatKeepsTheInterleaving : Obligations.DecstatKeepsTheInterleaving := by
  intro p s
  obtain ⟨hgroup, htemp, hs2, hs0, hs1⟩ := be64_bytesRead p
  rw [exec, execDecstat, hgroup, htemp, hs2, hs0, hs1]
  rfl

/-- Settles O20: bits 47:40 of the 64-bit view are byte 2. -/
theorem deccountReadsByteTwo : Obligations.DeccountReadsByteTwo := by
  intro p s
  obtain ⟨hcount, -⟩ := be64_bytesRead p
  rw [exec, execDeccount, hcount]
  rfl

/-- Settles O18: the halves of the 64-bit view are the two big-endian fields. -/
theorem decvcReadsVoltageHighCurrentLow : Obligations.DecvcReadsVoltageHighCurrentLow :=
  fun p s => ⟨_, _, exec_decvc p s, be32_toNat .., be32_toNat ..⟩

/-- Settles O17: each word is the number its four bytes make, the one at bit 24 first. -/
theorem encvcWritesBigEndianFields : Obligations.EncvcWritesBigEndianFields :=
  fun v c _ => ⟨payloadOfWords v c, rfl, toNat_eq_wordBytes v, toNat_eq_wordBytes c⟩

/-- Settles O21: byte 0 by the two values of the enable, the other bytes by their index. -/
theorem encrunIsInverted : Obligations.EncrunIsInverted := by
  intro en s
  refine ⟨_, rfl, ?_, ?_⟩
  · cases en <;> rfl
  · intro i hi
    match i with
    | 0 => exact absurd rfl hi
    | 1 | 2 | 3 | 4 | 5 | 6 | 7 => rfl

/-- Settles O22: DECVC reads the two big-endian fields that ENCVC wrote. -/
theorem voltageCurrentRoundTripIsExact : Obligations.VoltageCurrentRoundTripIsExact :=
  fun v c _ => ⟨_, _, _, _, rfl, rfl, exec_decvc (payloadOfWords v c) _, rfl, be32_wordByte v, be32_wordByte c⟩

/-- Settles O23: both operations read bits 47:40 of the 64-bit view. -/
theorem countIsTheGroupByte : Obligations.CountIsTheGroupByte := by
  intro p s
  refine ⟨_, _, _, _, rfl, rfl, rfl, rfl, rfl, ?_⟩
  rw [BitVec.extractLsb'_toNat, Nat.shiftRight_eq_div_pow]

/-- Settles O25: by the test of a condition, on the bytes DECSTAT gives. -/
theorem statusConditionIsTheBit : Obligations.StatusConditionIsTheBit :=
  fun p s k => ⟨_, _, decstatKeepsTheInterleaving p s, rfl,
    statusCondition_iff p.b6 k, statusCondition_iff p.b7 k, statusCondition_iff p.b5 k⟩

end Sys2Proof.Machine
end

section
/-! PROOFS. The frame matcher (42_matcher.md): what its four instructions do with the registers, what the wait of a
dispatch leaves in them, and how a dispatch ends. -/

namespace Sys2Proof.Machine

/-! ### The matching rule -/

theorem msgType_eq_iff (x : Ident) (t : MsgType) : msgType x = t ↔ x.toNat % 2 ^ 26 = t.toNat := by
  rw [← msgType_toNat, BitVec.toNat_inj]

/-- The matching rule of 42_matcher.md R81, with the message-type as a number. -/
theorem Matcher.accepts_iff (m : Matcher) (f : Frame) :
    m.accepts f = true ↔ f.ide = true ∧
      ((m.state = .issued ∧ f.id.toNat % 2 ^ 26 = m.expMt.toNat) ∨ (m.state ≠ .issued ∧ f.id = m.expId)) := by
  by_cases h : m.state = .issued
  · simp [accepts_issued h, msgType_eq_iff, h]
  · simp [accepts_other h, h]

theorem Matcher.accepts_congr {m m' : Matcher} (hstate : m.state = m'.state) (hid : m.expId = m'.expId)
    (hmt : m.expMt = m'.expMt) (f : Frame) : m.accepts f = m'.accepts f := by
  rw [Bool.eq_iff_iff, m.accepts_iff, m'.accepts_iff, hstate, hid, hmt]

/-- In Issued the error code, the payload and the length of a frame do not count (42_matcher.md R89). -/
theorem Matcher.accepts_eq_of_issued {m : Matcher} (h : m.state = .issued) {f g : Frame} (hide : f.ide = g.ide)
    (hid : f.id.toNat % 2 ^ 26 = g.id.toNat % 2 ^ 26) : m.accepts f = m.accepts g := by
  rw [Bool.eq_iff_iff, accepts_issued h, accepts_issued h, msgType_eq_iff, msgType_eq_iff, hide, hid]

/-- A frame equal to the expected identifier matches in every state, in Issued by its message-type
(10_state.md R21). -/
theorem Matcher.accepts_of_expId {m : Matcher} (hmt : m.expMt = msgType m.expId) {f : Frame} (hide : f.ide = true)
    (hid : f.id = m.expId) : m.accepts f = true := by
  by_cases h : m.state = .issued
  · exact (accepts_issued h f).mpr ⟨hide, by rw [hid, hmt]⟩
  · exact (accepts_other h f).mpr ⟨hide, hid⟩

/-- Once armed, a frame is tested by its message-type. -/
theorem Matcher.arm_accepts_iff (m : Matcher) (id : Ident) (f : Frame) :
    (m.arm id).accepts f = true ↔ f.ide = true ∧ msgType f.id = msgType (reply id) :=
  accepts_issued rfl f

/-- Once a reply is captured, a frame is tested by its whole identifier (42_matcher.md R81 case (c)). -/
theorem Matcher.capture_accepts_iff (m : Matcher) (f g : Frame) :
    (m.capture f).accepts g = true ↔ g.ide = true ∧ g.id = m.expId :=
  accepts_other (m := m.capture f) nofun g

/-- The registers after a receive event: RXFRAME seen from the matcher (`exec_rxframe_some`). -/
def Matcher.receive (m : Matcher) (f : Frame) : Matcher := if m.accepts f then m.capture f else m

theorem Matcher.receive_of_accepts {m : Matcher} {f : Frame} (h : m.accepts f = true) : m.receive f = m.capture f :=
  if_pos h

theorem Matcher.receive_of_not_accepts {m : Matcher} {f : Frame} (h : ¬ m.accepts f = true) : m.receive f = m :=
  if_neg h

/-! ### The instructions of the matcher -/

section
variable {s : State} {m : Matcher} (hm : s.matcher = some m)
include hm

theorem State.setMatcher_self : s.setMatcher m = s := by
  rw [State.setMatcher, ← hm]

theorem exec_issue_some (id : Word) :
    exec (.issue id) s = .next ((s.setMatcher (m.arm (readIdent id))).answer Result.zero) := by
  rw [exec, execIssue, ifMatcher_some hm]

theorem exec_consume_completed (hc : m.state = .completed) :
    exec .consume s = .next ((s.setMatcher m.release).answer { Result.zero with
      rp := m.resp, rlen := m.respLen, err := m.respErr, known := known m.respErr }) := by
  rw [exec, execConsume, ifMatcher_some hm, if_pos hc]

theorem exec_mstat_some :
    exec .mstat s = .next (s.answer { Result.zero with
      mst := m.state.code, id := identWord m.expId, mt := msgTypeWord m.expMt, rp := m.resp, rlen := m.respLen,
      err := m.respErr }) := by
  rw [exec, execMstat, ifMatcher_some hm]

theorem exec_rxframe_accepted {f : Frame} (ha : m.accepts f = true) :
    exec (.rxframe f) s = .next ((s.setMatcher (m.capture f)).answerRx true) := by
  rw [exec, execRxframe_some hm, if_pos ha]

theorem exec_rxframe_ignored {f : Frame} (ha : ¬ m.accepts f = true) :
    exec (.rxframe f) s = .next (s.answerRx false) := by
  rw [exec, execRxframe_some hm, if_neg ha]

/-- Both cases in one equation, for an argument that does not turn on which it is. -/
theorem exec_rxframe_some (f : Frame) :
    exec (.rxframe f) s = .next ((s.setMatcher (m.receive f)).answerRx (m.accepts f)) := by
  by_cases ha : m.accepts f = true
  · rw [exec_rxframe_accepted hm ha, Matcher.receive_of_accepts ha, ha]
  · rw [exec_rxframe_ignored hm ha, Matcher.receive_of_not_accepts ha, State.setMatcher_self hm,
      Bool.eq_false_of_not_eq_true ha]

end

theorem exec_rxframe_none {s : State} (hm : s.matcher = none) (f : Frame) :
    exec (.rxframe f) s = .next (s.answerRx false) := by
  simp [exec, execRxframe, hm]

/-! ### Each instruction by itself -/

/-- Settles O27: the expectation is the reply identifier of the operand, and its message-type. -/
theorem issueArmsTheMatcher : Obligations.IssueArmsTheMatcher :=
  fun id _ _ hm => ⟨_, _, exec_issue_some hm id,
    (identWord_toNat _).symm.trans (identWord_reply_readIdent_toNat id), msgType_toNat _⟩

/-- Settles O28: the condition is the matching rule. -/
theorem rxframeCapturesWhatMatches : Obligations.RxframeCapturesWhatMatches := by
  intro f s m hm
  rw [← m.accepts_iff]
  exact ⟨fun ha => ⟨_, errField_toNat f.id, exec_rxframe_accepted hm ha⟩, exec_rxframe_ignored hm⟩

/-- Settles O29: a receive event captures and shows 1, or is ignored and shows 0. -/
theorem unmatchedFrameChangesNothing : Obligations.UnmatchedFrameChangesNothing := by
  intro f s
  obtain ⟨t, ht, he⟩ := exec_effect_rxframe f s
  cases he with
  | capture => exact ⟨_, true, ht, rfl, nofun⟩
  | ignore => exact ⟨_, false, ht, rfl, fun _ => ⟨rfl, rfl⟩⟩
  | codec _ hrx => exact absurd rfl (hrx f)
  | illegal _ hi => cases hi

/-- Settles O30: by CONSUME's two answers. -/
theorem consumeTakesTheReply : Obligations.ConsumeTakesTheReply :=
  fun _ m hm => ⟨fun hc => ⟨_, exec_consume_completed hm hc, known_iff m.respErr⟩, exec_consume_notReady hm⟩

/-- Settles O31: by MSTAT's answer, each state by its code. -/
theorem mstatReadsTheRegisters : Obligations.MstatReadsTheRegisters := by
  intro s m hm
  refine ⟨_, _, _, exec_mstat_some hm, identWord_toNat _, msgTypeWord_toNat _, ?_, ?_, ?_, ?_⟩ <;>
  · intro h
    rw [h]
    rfl

/-- Settles O32: by what each instruction does without the matcher. -/
theorem withoutTheMatcherItsOperationsAreIllegal : Obligations.WithoutTheMatcherItsOperationsAreIllegal :=
  fun _ hm => ⟨fun _ hi => exec_illegal_of_none hm hi, exec_rxframe_none hm, cmpl_none hm⟩

/-! ### The matcher as a whole -/

/-- Settles O33: a frame of the two matching columns is accepted, and what is accepted is of one of them. -/
theorem transitionTableHolds : Obligations.TransitionTableHolds := by
  intro s m hm hmt
  refine ⟨fun id => ⟨_, _, exec_issue_some hm id, rfl, rfl⟩,
    fun f => ⟨_, _, exec_rxframe_some hm f, rfl, ?_, ?_, ?_⟩, ?_, ⟨_, exec_mstat_some hm, hm⟩⟩
  · rintro ⟨hide, hid⟩
    rw [Matcher.receive_of_accepts (Matcher.accepts_of_expId hmt hide hid)]
    exact ⟨rfl, rfl⟩
  · rintro ⟨hs, hide, hid⟩
    rw [Matcher.receive_of_accepts ((m.accepts_iff f).mpr ⟨hide, .inl ⟨hs, hid⟩⟩)]
    exact ⟨rfl, rfl⟩
  · rintro ⟨hnotId, hnotMt⟩
    refine Matcher.receive_of_not_accepts fun ha => ?_
    rcases (m.accepts_iff f).mp ha with ⟨hide, ⟨hs, hid⟩ | ⟨_, hid⟩⟩
    · exact hnotMt ⟨hs, hide, hid⟩
    · exact hnotId ⟨hide, hid⟩
  · by_cases hc : m.state = .completed
    · exact ⟨_, _, _, exec_consume_completed hm hc, rfl, rfl, fun _ => ⟨rfl, rfl⟩, fun h => absurd hc h⟩
    · exact ⟨_, _, _, exec_consume_notReady hm hc, hm, rfl, fun h => absurd h hc, fun _ => ⟨rfl, rfl⟩⟩

/-- Settles O37: whether a frame matches and whether CONSUME finds a reply is decided by `STATE` and the expectation,
and only the answers of CONSUME and MSTAT show the reply. -/
theorem capturedReplyDoesNotSteerTheMatcher : Obligations.CapturedReplyDoesNotSteerTheMatcher := by
  intro i s s' m m' hm hm' hlen hstate hid hmt
  have hcodec := codecIsAFunctionOfItsOperands i s s'
  cases i with
  | issue id =>
    exact ⟨_, _, _, _, exec_issue_some hm id, exec_issue_some hm' id, rfl, rfl, rfl, rfl, rfl, fun _ _ => rfl⟩
  | consume =>
    by_cases hc : m.state = .completed
    · exact ⟨_, _, _, _, exec_consume_completed hm hc, exec_consume_completed hm' (hstate ▸ hc), rfl, rfl, rfl, hid, hmt,
        fun h => absurd rfl h⟩
    · exact ⟨_, _, _, _, exec_consume_notReady hm hc, exec_consume_notReady hm' (hstate ▸ hc), hm, hm', hstate, hid, hmt,
        fun h => absurd rfl h⟩
  | mstat =>
    exact ⟨_, _, _, _, exec_mstat_some hm, exec_mstat_some hm', hm, hm', hstate, hid, hmt, fun _ h => absurd rfl h⟩
  | rxframe f =>
    have haccepts := Matcher.accepts_congr hstate hid hmt f
    by_cases ha : m.accepts f = true
    · exact ⟨_, _, _, _, exec_rxframe_accepted hm ha, exec_rxframe_accepted hm' (haccepts ▸ ha), rfl, rfl, rfl, hid, hmt,
        fun _ _ => rfl⟩
    · exact ⟨_, _, _, _, exec_rxframe_ignored hm ha, exec_rxframe_ignored hm' (haccepts ▸ ha), hm, hm', hstate, hid, hmt,
        fun _ _ => rfl⟩
  | _ =>
    obtain ⟨_, _, hexec, hexec'⟩ := hcodec rfl (by simp) hlen
    exact ⟨_, _, _, _, hexec, hexec', hm, hm', hstate, hid, hmt, fun _ _ => rfl⟩

/-- Settles O49: the two frames are accepted alike, and CONSUME takes what the second left. -/
theorem anyErrorCodeCompletesTheDispatch : Obligations.AnyErrorCodeCompletesTheDispatch := by
  intro s m f g hm hs hide hid
  have haccepts : m.accepts f = m.accepts g := Matcher.accepts_eq_of_issued hs hide hid
  refine ⟨_, _, m.accepts f, exec_rxframe_some hm f, exec_rxframe_some hm g, rfl, congrArg Response.matched haccepts.symm,
    ?_, fun ha => ?_⟩
  · rw [accepts_issued hs, msgType_eq_iff]
  · rw [Matcher.receive_of_accepts ha, Matcher.receive_of_accepts (haccepts ▸ ha)]
    exact ⟨rfl, rfl, _, _, exec_consume_completed (m := m.capture g) rfl rfl, rfl, rfl, errField_toNat g.id, rfl, rfl⟩

/-! ### The wait of a dispatch -/

/-- An operation that is neither ISSUE nor CONSUME writes no register, and neither does a reserved word. -/
theorem perform_command_matcher {c : Command} (hissue : c.word ≠ 0x0C#8) (hconsume : c.word ≠ 0x0D#8) (s : State) :
    (perform (.command c) s).matcher = s.matcher := by
  cases hd : decode (.command c) with
  | none => rw [perform_illegal hd, State.answerIllegal_matcher]
  | some i =>
    obtain ⟨t, ht, he⟩ := exec_effect i s
    have hword := encode_of_decode_command hd
    rw [perform_operation hd ht]
    cases he with
    | codec | illegal | notReady | read | ignore => rfl
    | arm => exact absurd (congrArg Command.word (Presented.command.inj hword)).symm hissue
    | release => exact absurd (congrArg Command.word (Presented.command.inj hword)).symm hconsume
    | capture => cases hword

theorem perform_receive_matcher {s : State} {m : Matcher} (hm : s.matcher = some m) (f : Frame) :
    (perform (.receive f) s).matcher = some (m.receive f) := by
  rw [perform_eq (x := .receive f) (exec_rxframe_some hm f)]
  rfl

/-- Of an input of the wait only the frame counts, whatever is presented beside it and in either order
(60_exceptions.md R98). -/
theorem perform_duringWait_matcher {s : State} {m : Matcher} {y : Input} (hm : s.matcher = some m)
    (hy : y.duringWait = true) : (perform y s).matcher = some (y.frame?.elim m m.receive) := by
  cases y with
  | command c =>
    obtain ⟨hissue, hconsume⟩ : c.word ≠ 0x0C#8 ∧ c.word ≠ 0x0D#8 := by simpa [Input.duringWait] using hy
    rw [perform_command_matcher hissue hconsume, hm]
    rfl
  | receive f => exact perform_receive_matcher hm f
  | simultaneous c f receiveFirst =>
    obtain ⟨hissue, hconsume⟩ : c.word ≠ 0x0C#8 ∧ c.word ≠ 0x0D#8 := by simpa [Input.duringWait] using hy
    cases receiveFirst with
    | true =>
      rw [perform_frameFirst, perform_command_matcher hissue hconsume]
      exact perform_receive_matcher hm f
    | false =>
      rw [perform_commandFirst]
      exact perform_receive_matcher ((perform_command_matcher hissue hconsume s).trans hm) f
  | reset d => cases hy

theorem perform_accepted_matcher {s : State} {m : Matcher} {y : Input} {f : Frame} (hm : s.matcher = some m)
    (hy : y.duringWait = true) (hf : y.frame? = some f) (ha : m.accepts f = true) :
    (perform y s).matcher = some (m.capture f) := by
  rw [perform_duringWait_matcher hm hy, hf, Option.elim_some, Matcher.receive_of_accepts ha]

/-- Inputs of the wait whose frames do not match leave the registers. -/
theorem performAll_unmatched {s : State} {m : Matcher} {ys : List Input} (hm : s.matcher = some m)
    (hwait : ∀ y ∈ ys, y.duringWait = true) (hframe : ∀ y ∈ ys, ∀ g, y.frame? = some g → ¬ m.accepts g = true) :
    (performAll ys s).matcher = some m := by
  induction ys generalizing s with
  | nil => exact hm
  | cons y ys ih =>
    rw [List.forall_mem_cons] at hwait hframe
    refine ih ?_ hwait.2 hframe.2
    rw [perform_duringWait_matcher hm hwait.1]
    cases hf : y.frame? with
    | none => rfl
    | some g => exact congrArg some (Matcher.receive_of_not_accepts (hframe.1 g hf))

/-! ### How a dispatch ends -/

theorem awaitReply_append (id : Word) (xs ys : List Input) (s : State) :
    awaitReply id (xs ++ ys) s = performAll ys (awaitReply id xs s) :=
  performAll_append xs ys _

theorem dispatch_of_issued {s : State} {m : Matcher} {id : Word} {during : List Input}
    (hm : (awaitReply id during s).matcher = some m) (hs : m.state = .issued) :
    dispatch id during s = (awaitReply id during s, .timeout) := by
  simp [dispatch, State.cmpl, State.hasFailed, hm, hs]

/-- A dispatch that finds `cmpl` 1 takes the reply and leaves Idle (42_matcher.md R84). -/
theorem dispatch_of_completed {s : State} {m : Matcher} {id : Word} {during : List Input}
    (hm : (awaitReply id during s).matcher = some m) (hc : m.state = .completed) :
    (dispatch id during s).2 = .success m.resp m.respLen m.respErr (known m.respErr) ∧
    (dispatch id during s).1.matcher = some m.release := by
  rw [dispatch, if_pos ((cmpl_some hm).mpr hc), perform_consume_completed hm hc]
  exact ⟨rfl, rfl⟩

section
variable {s : State} {m : Matcher} {id : Word} {during : List Input} (hm : s.matcher = some m)
  (hwait : ∀ y ∈ during, y.duringWait = true)
  (hframe : ∀ y ∈ during, ∀ g, y.frame? = some g → ¬ (g.ide = true ∧ msgType g.id = msgType (reply (readIdent id))))
include hm hwait hframe

/-- The matcher waits in Issued, armed, until a frame has the expected message-type. -/
theorem awaitReply_unmatched :
    (awaitReply id during s).matcher = some (m.arm (readIdent id)) := by
  refine performAll_unmatched (by rw [perform_issue_some hm]; rfl) hwait fun y hy g hg => ?_
  rw [Matcher.arm_accepts_iff]
  exact hframe y hy g hg

/-- A dispatch that saw no frame with its message-type times out in Issued, the reply registers as they were. -/
theorem dispatch_unmatched :
    (dispatch id during s).2 = .timeout ∧ (dispatch id during s).1.matcher = some (m.arm (readIdent id)) := by
  have hawait := awaitReply_unmatched hm hwait hframe
  rw [dispatch_of_issued hawait rfl]
  exact ⟨rfl, hawait⟩

end

/-- The first frame with the expected message-type is what the wait ends with, unless a frame equal to the expected
identifier follows. -/
theorem awaitReply_matched {s : State} {m : Matcher} {id : Word} {before after : List Input} {x : Input} {f : Frame}
    (hm : s.matcher = some m) (hwait : ∀ y ∈ before ++ x :: after, y.duringWait = true)
    (hbefore : ∀ y ∈ before, ∀ g, y.frame? = some g →
      ¬ (g.ide = true ∧ msgType g.id = msgType (reply (readIdent id))))
    (hf : x.frame? = some f) (hmatch : f.ide = true ∧ msgType f.id = msgType (reply (readIdent id)))
    (hafter : ∀ y ∈ after, ∀ g, y.frame? = some g → ¬ (g.ide = true ∧ g.id = reply (readIdent id))) :
    (awaitReply id (before ++ x :: after) s).matcher = some ((m.arm (readIdent id)).capture f) := by
  rw [List.forall_mem_append, List.forall_mem_cons] at hwait
  obtain ⟨hwaitBefore, hwaitX, hwaitAfter⟩ := hwait
  have harmed := awaitReply_unmatched hm hwaitBefore hbefore
  have hcaptured := perform_accepted_matcher harmed hwaitX hf ((m.arm_accepts_iff _ f).mpr hmatch)
  rw [awaitReply_append, performAll_cons]
  refine performAll_unmatched hcaptured hwaitAfter fun y hy g hg => ?_
  rw [Matcher.capture_accepts_iff]
  exact hafter y hy g hg

/-- Settles O45: the wait ends with the first matching frame captured, or with the later one that replaces it. -/
theorem dispatchObservesTheFirstMatchingReply : Obligations.DispatchObservesTheFirstMatchingReply := by
  intro s m id before after x f hm hwait hbefore hf hmatch hafter
  have hfirst := awaitReply_matched hm hwait hbefore hf hmatch hafter
  obtain ⟨hsuccess, hidle⟩ := dispatch_of_completed hfirst rfl
  refine ⟨hsuccess, hidle, fun y g hy hg hide hid => ?_⟩
  have hsecond : (awaitReply id (before ++ x :: (after ++ [y])) s).matcher =
      some (((m.arm (readIdent id)).capture f).capture g) := by
    rw [← List.cons_append, ← List.append_assoc, awaitReply_append]
    exact perform_accepted_matcher hfirst hy hg ((Matcher.capture_accepts_iff _ f g).mpr ⟨hide, hid⟩)
  obtain ⟨hreplaced, -⟩ := dispatch_of_completed hsecond rfl
  exact hreplaced

/-- Settles O46: a late frame meets the matcher armed as the dispatch left it, and the next dispatch arms it anew,
whatever the frame did. -/
theorem timedOutDispatchLeavesIssued : Obligations.TimedOutDispatchLeavesIssued := by
  intro s m id during hm hwait hframe
  obtain ⟨htimeout, hissued⟩ := dispatch_unmatched hm hwait hframe
  refine ⟨htimeout, hissued, fun late next afterwards => ⟨fun hmatch => ?_, fun hwait' hframe' => ?_⟩⟩
  · have hcaptured := perform_accepted_matcher (y := .receive late) hissued rfl rfl ((m.arm_accepts_iff _ late).mpr hmatch)
    exact (cmpl_some hcaptured).mpr rfl
  · obtain ⟨htimeout', -⟩ := dispatch_unmatched (perform_receive_matcher hissued late) hwait' hframe'
    exact htimeout'

end Sys2Proof.Machine
end

section
/-! PROOFS. The exceptions (60_exceptions.md): which presentations answer ILLEGAL, what a run can end in, and the
host's moves as a run of the block. -/

namespace Sys2Proof.Machine

/-! ### The words that name an operation -/

theorem existsIn_of_codec {i : Instr} (h : i.existsIn false = true) (hasMatcher : Bool) :
    i.existsIn hasMatcher = true := by
  cases i with
  | issue | consume | mstat => cases h
  | _ => rfl

theorem legalWord_eq_false_iff (hasMatcher : Bool) (w : Byte) :
    legalWord hasMatcher w = false ↔ w.toNat = 0 ∨ w.toNat = 15 ∨ 16 ≤ w.toNat ∨
      (hasMatcher = false ∧ 12 ≤ w.toNat ∧ w.toNat ≤ 14) := by
  cases hasMatcher <;> simp [legalWord] <;> omega

theorem legalWord_of_encode {i : Instr} {c : Command} (h : encode i = .command c) (hasMatcher : Bool) :
    legalWord hasMatcher c.word = i.existsIn hasMatcher := by
  cases i with
  | rxframe => cases h
  | issue | consume | mstat => cases h; cases hasMatcher <;> rfl
  | _ => cases h; rfl

theorem decodeOp_eq_none {o : Operands} {op : BitVec 4} (h : decodeOp o op = none) : op = 0x0#4 ∨ op = 0xF#4 := by
  unfold decodeOp at h
  split at h
  case h_15 =>  -- the wildcard: `op` is none of the codes 1 to E
    simp only [imp_false] at *
    bv_omega
  all_goals cases h

/-- A word that decodes to nothing is one of the reserved words (30_encoding.md R53). -/
theorem reserved_of_decode_eq_none {c : Command} (h : decode (.command c) = none) :
    c.word.toNat = 0 ∨ 15 ≤ c.word.toNat := by
  by_cases hrsv : rsvField c.word = 0
  · have hop := decodeOp_eq_none ((if_pos hrsv).symm.trans h)
    have := opField_setWidth hrsv
    bv_omega
  · rw [rsvField_eq_zero_iff] at hrsv
    omega

/-- A presentation is legal exactly when it decodes to an instruction of the machine. -/
theorem legal_inputOf_iff {p : Presented} {hasMatcher : Bool} :
    (inputOf p).legal hasMatcher = true ↔ ∃ i, decode p = some i ∧ i.existsIn hasMatcher = true := by
  cases p with
  | receive f => exact ⟨fun _ => ⟨_, rfl, rfl⟩, fun _ => rfl⟩
  | command c =>
    change legalWord hasMatcher c.word = true ↔ _
    cases hd : decode (.command c) with
    | none =>
      have hreserved := reserved_of_decode_eq_none hd
      have : legalWord hasMatcher c.word = false := (legalWord_eq_false_iff _ _).mpr (by omega)
      simp [this]
    | some i => simp [← legalWord_of_encode (encode_of_decode_command hd)]

/-! ### What answers ILLEGAL -/

theorem hasMatcher_of_some {s : State} {m : Matcher} (h : s.matcher = some m) : s.hasMatcher = true := by
  simp [State.hasMatcher, h]

theorem hasMatcher_eq_false_iff {s : State} : s.hasMatcher = false ↔ s.matcher = none :=
  Option.isSome_eq_false_iff.trans Option.isNone_iff_eq_none

theorem answeredIllegal_iff_of_result {s : State} {r : Result} (h : s.response = .result r) :
    s.answeredIllegal = true ↔ r.st = .illegal := by
  simp [State.answeredIllegal, h]

/-- An instruction answers ILLEGAL exactly when it does not exist in the machine. -/
theorem Effect.answeredIllegal_iff {i : Instr} {s t : State} (he : Effect s i t) :
    t.answeredIllegal = true ↔ i.existsIn s.hasMatcher = false := by
  cases he with
  | codec hi _ hok => simp [State.answeredIllegal, hok, existsIn_of_codec hi]
  | illegal hm hi => simp [State.answeredIllegal, hasMatcher_eq_false_iff.mpr hm, hi]
  | arm _ hm | release hm | notReady hm | read hm =>
    simp [State.answeredIllegal, hasMatcher_of_some hm, Instr.existsIn, Result.zero]
  | capture | ignore => simp [State.answeredIllegal, Instr.existsIn]

/-- A presentation that is not legal is answered ILLEGAL and does nothing else (60_exceptions.md R91). -/
theorem performWith_of_not_legal {p : Presented} {s : State} (h : (inputOf p).legal s.hasMatcher = false) :
    performWith exec p s = .next s.answerIllegal := by
  cases hd : decode p with
  | none => simp [performWith, hd]
  | some i =>
    have hi : i.existsIn s.hasMatcher = false :=
      Bool.eq_false_iff.mpr fun hi => by cases h.symm.trans (legal_inputOf_iff.mpr ⟨i, hd, hi⟩)
    obtain ⟨hm, -⟩ := (existsIn_eq_false_iff _ _).mp hi
    rw [performWith_decode hd, exec_illegal_of_none (hasMatcher_eq_false_iff.mp hm) (hm ▸ hi)]

/-- Any other presentation is answered without ILLEGAL; what is presented later and the parameters stay. -/
theorem performWith_of_legal {p : Presented} {s : State} (h : (inputOf p).legal s.hasMatcher = true) :
    ∃ t, performWith exec p s = .next t ∧ t.answeredIllegal = false ∧ t.inputs = s.inputs ∧
      t.hasMatcher = s.hasMatcher := by
  obtain ⟨i, hd, hi⟩ := legal_inputOf_iff.mp h
  obtain ⟨t, ht, -, hinputs, hmatcher⟩ := exec_next i s
  refine ⟨t, (performWith_decode hd exec s).trans ht, ?_, hinputs, hmatcher⟩
  simpa [hi] using (effect_of_exec ht).answeredIllegal_iff

/-! ### Legal programs -/

/-- The premise "no ILLEGAL response" of 93_implementation_defined.md: what is still presented names operations of
the machine, and the last answer is not ILLEGAL. -/
structure State.Legal (s : State) : Prop where
  inputs : ∀ x ∈ s.inputs, x.legal s.hasMatcher = true
  answer : s.answeredIllegal = false

theorem legal_of_performWith {p : Presented} {rest : List Input} {s t : State}
    (hp : (inputOf p).legal s.hasMatcher = true) (hrest : ∀ x ∈ rest, x.legal s.hasMatcher = true)
    (h : performWith exec p { s with inputs := rest } = .next t) : t.Legal := by
  obtain ⟨u, hu, hanswer, hinputs, hmatcher⟩ := performWith_of_legal (s := { s with inputs := rest }) hp
  cases hu.symm.trans h
  refine ⟨?_, hanswer⟩
  rw [hinputs, hmatcher]
  exact hrest

theorem step_legal {s t : State} (hs : s.Legal) (h : step s = .next t) : t.Legal := by
  obtain ⟨hinputs, hanswer⟩ := hs
  cases hi : s.inputs with
  | nil =>
    cases (step_nothing hi).symm.trans h
    exact ⟨hinputs, hanswer⟩
  | cons x rest =>
    rw [step_eq_of_inputs hi] at h
    obtain ⟨hx, hrest⟩ := List.forall_mem_cons.mp (hi ▸ hinputs)
    cases x with
    | command c => exact legal_of_performWith (p := .command c) hx hrest h
    | receive f => exact legal_of_performWith (p := .receive f) rfl hrest h
    | reset d =>
      cases h
      exact ⟨by simpa [State.hasMatcher] using hrest, rfl⟩
    | simultaneous c f receiveFirst =>
      cases receiveFirst with
      | true =>
        exact legal_of_performWith (p := .receive f) (rest := .command c :: rest) rfl
          (List.forall_mem_cons.mpr ⟨hx, hrest⟩) h
      | false =>
        exact legal_of_performWith (p := .command c) (rest := .receive f :: rest) hx
          (List.forall_mem_cons.mpr ⟨rfl, hrest⟩) h

/-- Settles O42: what a step takes and what it leaves are both legal, also of a simultaneous presentation. -/
theorem everyStepKeepsProgramsLegal : Obligations.EveryStepKeepsProgramsLegal := by
  intro s t hinputs hanswer h
  obtain ⟨hinputs', hanswer'⟩ := step_legal ⟨hinputs, hanswer⟩ h
  exact ⟨hinputs', hanswer'⟩

/-- Settles O43: by the step lemma, along the run. -/
theorem legalProgramsNeverSeeIllegal : Obligations.LegalProgramsNeverSeeIllegal :=
  fun _ _ _ hinputs hanswer h => (run_keeps (fun _ _ => step_legal) ⟨hinputs, hanswer⟩ h).answer

/-- Settles O4: the reserved words are the ones that are not legal, and answering them writes the response alone. -/
theorem illegalAnswersExactlyReservedWords : Obligations.IllegalAnswersExactlyReservedWords := by
  intro s c rest h
  rw [step_eq_of_inputs h, step_command, ← hasMatcher_eq_false_iff, ← legalWord_eq_false_iff]
  cases hlegal : legalWord s.hasMatcher c.word with
  | true =>
    obtain ⟨t, ht, hanswer, -⟩ := performWith_of_legal (p := .command c) (s := { s with inputs := rest }) hlegal
    exact ⟨t, ht, by simp [hanswer], by simp [hanswer]⟩
  | false =>
    have hillegal := performWith_of_not_legal (p := .command c) (s := { s with inputs := rest }) hlegal
    exact ⟨_, hillegal, ⟨fun _ => rfl, fun _ => rfl⟩, fun _ => ⟨rfl, rfl⟩⟩

/-! ### The response status of an instruction -/

theorem Status.code_ne_three (x : Status) : x.code ≠ 3 := by
  cases x <;> decide

/-- NOTREADY is the answer of CONSUME with no reply to take (60_exceptions.md R92), and of nothing else. -/
theorem Effect.notReady_iff {i : Instr} {s t : State} (he : Effect s i t) {r : Result} (h : t.response = .result r) :
    r.st = .notReady ↔ i = .consume ∧ ∃ m, s.matcher = some m ∧ m.state ≠ .completed := by
  cases he with
  | codec hi _ hok =>
    cases h
    have hne : i ≠ .consume := by rintro rfl; cases hi
    simp [hok, hne]
  | illegal hm => cases h; simp [hm]
  | arm | read => cases h; simp [Result.zero]
  | release hm hc => cases h; simp [hm, hc, Result.zero]
  | notReady hm hc => cases h; simp [hm, hc]
  | capture | ignore => cases h

theorem Effect.answers {i : Instr} {s t : State} (he : Effect s i t) :
    (∃ f, i = .rxframe f) ∨ ∃ r, t.response = .result r := by
  cases he with
  | capture | ignore => exact .inl ⟨_, rfl⟩
  | codec | illegal | arm | release | notReady | read => exact .inr ⟨_, rfl⟩

/-- Settles O6: ILLEGAL and NOTREADY by what each effect answers; the code 3 has no constructor. -/
theorem everyOtherOperationEndsOk : Obligations.EveryOtherOperationEndsOk := by
  intro i s
  obtain ⟨t, ht, he⟩ := exec_effect i s
  refine ⟨t, ht, he.answers, fun r hr => ⟨r.st.code_ne_three, ?_, he.notReady_iff hr⟩⟩
  rw [← answeredIllegal_iff_of_result hr, he.answeredIllegal_iff]

/-! ### Runs -/

theorem run_next (n : Nat) (s : State) : ∃ t, run n s = .next t := by
  induction n generalizing s with
  | zero => exact ⟨s, rfl⟩
  | succ n ih =>
    obtain ⟨u, hu⟩ := step_next s
    rw [run_succ hu]
    exact ih u

/-- Settles O41: every step completes. -/
theorem noRunStops : Obligations.NoRunStops := fun s n => run_next n s

theorem run_succ_congr {s s' : State} (h : step s = step s') (n : Nat) : run (n + 1) s = run (n + 1) s' := by
  obtain ⟨t, ht⟩ := step_next s
  rw [run_succ ht, run_succ (h.symm.trans ht)]

theorem perform_issueWord_matcher {s : State} {m : Matcher} (hm : s.matcher = some m) (o : Operands) :
    (perform (.command { word := 0x0C#8, ops := o }) s).matcher = some (m.arm (readIdent o.id)) := by
  have hd : decode (.command { word := 0x0C#8, ops := o }) = some (.issue o.id) := decode_setWidth 0xC#4 o
  rw [perform_operation hd (exec_issue_some hm o.id)]
  rfl

/-- ISSUE and a reply to it at the same time: a reply taken after ISSUE completes the matcher, one taken before it
does not count. -/
theorem perform_issueBesideReply {s : State} {m : Matcher} (hm : s.matcher = some m) {o : Operands} {f : Frame}
    (hmatch : f.ide = true ∧ msgType f.id = msgType (reply (readIdent o.id))) (receiveFirst : Bool) :
    ∃ m', (perform (.simultaneous { word := 0x0C#8, ops := o } f receiveFirst) s).matcher = some m' ∧
      (receiveFirst = false → m'.state = .completed) ∧ (receiveFirst = true → m'.state = .issued) := by
  cases receiveFirst with
  | true =>
    rw [perform_frameFirst]
    exact ⟨_, perform_issueWord_matcher (perform_receive_matcher hm f) o, nofun, fun _ => rfl⟩
  | false =>
    rw [perform_commandFirst, perform_receive_matcher (perform_issueWord_matcher hm o),
      Matcher.receive_of_accepts ((m.arm_accepts_iff _ f).mpr hmatch)]
    exact ⟨_, rfl, fun _ => rfl, nofun⟩

/-- Settles O5: the first step of the pair is that of its first half presented before the other. -/
theorem simultaneousPresentationAdmitsBothOrders : Obligations.SimultaneousPresentationAdmitsBothOrders := by
  refine ⟨fun s c f rest => ⟨?_, ?_⟩, fun s m o f rest receiveFirst hm hide hmt => ?_⟩
  · exact run_succ_congr (step_frameFirst s c f rest) 1
  · exact run_succ_congr (step_commandFirst s c f rest) 1
  · obtain ⟨m', hm', hstate⟩ :=
      perform_issueBesideReply (s := { s with inputs := rest }) hm ⟨hide, hmt⟩ receiveFirst
    obtain ⟨-, hinputs⟩ := perform_withInputs (.simultaneous { word := 0x0C#8, ops := o } f receiveFirst)
      { s with inputs := rest } rest
    exact ⟨_, m', run_perform (.simultaneous _ f receiveFirst) { s with inputs := rest }, hm', hinputs, hstate⟩

/-! ### The moves of a host -/

theorem hostRun_eq_performAll (s : State) (moves : List HostMove) :
    hostRun s moves = performAll (moves.filterMap HostMove.input?) s := by
  induction moves generalizing s with
  | nil => rfl
  | cons x moves ih => cases x <;> exact ih _

theorem performAll_inputs (xs : List Input) (s : State) : (performAll xs s).inputs = s.inputs := by
  induction xs generalizing s with
  | nil => rfl
  | cons x xs ih => exact (ih _).trans (perform_withInputs x s []).2

/-- Settles O51: the moves perform what they present, one after the other. -/
theorem hostMovesAreARunOfTheBlock : Obligations.HostMovesAreARunOfTheBlock := by
  intro s moves
  refine ⟨_, rfl, ?_⟩
  rw [hostRun_eq_performAll]
  exact ⟨run_performAll _ s, performAll_inputs _ s⟩

/-! ### A dispatch never fails -/

/-- What every step keeps, whatever is presented later, presenting inputs keeps. -/
theorem performAll_keeps {P : State → Prop} (hinputs : ∀ s xs, P s → P { s with inputs := xs })
    (hstep : ∀ s t, P s → step s = .next t → P t) {xs : List Input} {s : State} (hs : P s) : P (performAll xs s) := by
  induction xs generalizing s with
  | nil => exact hs
  | cons x xs ih => exact ih (run_keeps hstep (hinputs s _ hs) (run_perform x s))

theorem awaitReply_none {s : State} (h : s.matcher = none) (id : Word) (during : List Input) :
    (awaitReply id during s).matcher = none := by
  rw [← hasMatcher_eq_false_iff] at h ⊢
  refine performAll_keeps (P := fun t => t.hasMatcher = false) (xs := instrInput (.issue id) :: during)
    (fun _ _ ht => ht) (fun t u ht hstep => ?_) h
  obtain ⟨-, hmatcher⟩ := step_sameParameters hstep
  exact hmatcher.trans ht

/-- The registers are sound at the end of the wait, whatever they were before the ISSUE: it arms the matcher anew. -/
theorem awaitReply_registersSound (id : Word) (during : List Input) (s : State) :
    (awaitReply id during s).RegistersSound := by
  refine performAll_keeps (fun _ _ ht => ht) (fun _ _ => step_registersSound) ?_
  intro m hm
  cases hs : s.matcher with
  | none => simp [perform_issue_none hs, hs] at hm
  | some n =>
    rw [perform_issue_some hs] at hm
    cases hm
    exact Matcher.arm_sound n _

theorem State.RegistersSound.hasFailed_eq_false {s : State} (hs : s.RegistersSound) : s.hasFailed = false := by
  cases hm : s.matcher with
  | none => simp [State.hasFailed, hm]
  | some m => simpa [State.hasFailed, hm] using (hs m hm).reachable

/-- A dispatch that finds `cmpl` 0 times out: `STATE` is not Failed then. -/
theorem dispatch_of_not_cmpl {id : Word} {during : List Input} {s : State} (h : (awaitReply id during s).cmpl = false) :
    dispatch id during s = (awaitReply id during s, .timeout) := by
  simp [dispatch, h, (awaitReply_registersSound id during s).hasFailed_eq_false]

/-- Settles O54: at `cmpl` 1 the CONSUME finds a reply, at `cmpl` 0 the registers are sound. -/
theorem dispatchNeverFails : Obligations.DispatchNeverFails := by
  intro s id during
  have hnone : s.matcher = none → (awaitReply id during s).cmpl = false :=
    fun h => cmpl_none (awaitReply_none h id during)
  cases hc : (awaitReply id during s).cmpl with
  | false => simp [dispatch_of_not_cmpl hc]
  | true =>
    obtain ⟨m, hm, hcompleted⟩ := (State.cmpl_iff _).mp hc
    obtain ⟨hsuccess, -⟩ := dispatch_of_completed hm hcompleted
    rw [hsuccess]
    exact ⟨nofun, ⟨nofun, nofun⟩, fun h => by cases hc.symm.trans (hnone h)⟩

/-! ### The duties of a host -/

/-- The move that closes a dispatch (60_exceptions.md R102), of a host whose wait ends in `t`. -/
def closingMove (t : State) : HostMove := if t.cmpl then .present (instrInput .consume) else .timeout

theorem dispatchMoves_append (id : Word) (during : List Input) (s : State) (rest : List HostMove) :
    dispatchMoves id during s ++ rest = .present (instrInput (.issue id)) :: .send (readIdent id) ::
      (during.map .present ++ closingMove (awaitReply id during s) :: rest) := by
  simp [dispatchMoves, closingMove]

theorem closingMove_issued (t : State) : (closingMove t).issued = none := by
  rw [closingMove]
  split <;> rfl

theorem closingMove_ends (t : State) : (closingMove t).ends t = true := by
  cases hc : t.cmpl with
  | false => rw [closingMove, hc]; rfl
  | true => rw [closingMove, hc]; exact hc

theorem dispatch_fst (id : Word) (during : List Input) (s : State) :
    (dispatch id during s).1 = hostStep (awaitReply id during s) (closingMove (awaitReply id during s)) := by
  rw [dispatch, closingMove]
  split <;> rfl

theorem hostRun_map_present (ys : List Input) (s : State) : hostRun s (ys.map .present) = performAll ys s :=
  List.foldl_map

theorem hostRun_dispatchMoves (id : Word) (during : List Input) (s : State) :
    hostRun s (dispatchMoves id during s) = (dispatch id during s).1 := by
  rw [← List.append_nil (dispatchMoves id during s), dispatchMoves_append, dispatch_fst, awaitReply,
    ← hostRun_map_present]
  exact hostRun_append _ (during.map .present) [closingMove _]

/-- An input of the wait neither issues nor consumes. -/
theorem issued_consumes_of_duringWait {y : Input} (hy : y.duringWait = true) :
    (HostMove.present y).issued = none ∧ (HostMove.present y).consumes = false := by
  cases y with
  | receive | reset => exact ⟨rfl, rfl⟩
  | command c | simultaneous c =>
    obtain ⟨hissue, hconsume⟩ : c.word ≠ 0x0C#8 ∧ c.word ≠ 0x0D#8 := by simpa [Input.duringWait] using hy
    simp [HostMove.issued, HostMove.consumes, Input.command?, hissue, hconsume]

theorem singleFlight_duringWait {ys : List Input} (hwait : ∀ y ∈ ys, y.duringWait = true) (busy : Bool) (s : State)
    (rest : List HostMove) :
    singleFlight busy s (ys.map .present ++ rest) = singleFlight busy (performAll ys s) rest := by
  induction ys generalizing s with
  | nil => rfl
  | cons y ys ih =>
    obtain ⟨hy, hys⟩ := List.forall_mem_cons.mp hwait
    obtain ⟨hissued, hconsumes⟩ := issued_consumes_of_duringWait hy
    simp [singleFlight, hissued, hconsumes, HostMove.ends, hostStep, performAll_cons, ih hys]

theorem issueFirst_duringWait {ys : List Input} (hwait : ∀ y ∈ ys, y.duringWait = true) (armed : Option Ident)
    (rest : List HostMove) :
    issueFirst armed (ys.map .present ++ rest) = issueFirst armed rest := by
  induction ys with
  | nil => rfl
  | cons y ys ih =>
    obtain ⟨hy, hys⟩ := List.forall_mem_cons.mp hwait
    obtain ⟨hissued, -⟩ := issued_consumes_of_duringWait hy
    simp [issueFirst, hissued, ih hys]

/-- An ISSUE with no dispatch in flight puts one in flight, and sending its request does not end it. -/
theorem singleFlight_issue_send (id : Word) (s : State) (rest : List HostMove) :
    singleFlight false s (.present (instrInput (.issue id)) :: .send (readIdent id) :: rest) =
      singleFlight true (perform (instrInput (.issue id)) s) rest := rfl

theorem singleFlight_closingMove (t : State) (rest : List HostMove) :
    singleFlight true t (closingMove t :: rest) = singleFlight false (hostStep t (closingMove t)) rest := by
  simp [singleFlight, closingMove_issued, closingMove_ends]

/-- A dispatch that begins with none in flight keeps R108 and leaves none. -/
theorem singleFlight_dispatchMoves {during : List Input} (hwait : ∀ y ∈ during, y.duringWait = true) (id : Word)
    (s : State) (rest : List HostMove) :
    singleFlight false s (dispatchMoves id during s ++ rest) = singleFlight false (dispatch id during s).1 rest := by
  rw [dispatchMoves_append, singleFlight_issue_send, singleFlight_duringWait hwait, dispatch_fst,
    ← singleFlight_closingMove, awaitReply]

theorem issueFirst_issue_send (armed : Option Ident) (id : Word) (rest : List HostMove) :
    issueFirst armed (.present (instrInput (.issue id)) :: .send (readIdent id) :: rest) = issueFirst none rest := by
  have hissued : (HostMove.present (instrInput (.issue id))).issued = some (readIdent id) := rfl
  simp [issueFirst, hissued]

theorem issueFirst_closingMove (armed : Option Ident) (t : State) (rest : List HostMove) :
    issueFirst armed (closingMove t :: rest) = issueFirst armed rest := by
  rw [closingMove]
  split <;> rfl

/-- A dispatch sends the request it has issued, once, and keeps R107 whatever was armed before. -/
theorem issueFirst_dispatchMoves {during : List Input} (hwait : ∀ y ∈ during, y.duringWait = true) (id : Word)
    (s : State) (armed : Option Ident) (rest : List HostMove) :
    issueFirst armed (dispatchMoves id during s ++ rest) = issueFirst none rest := by
  rw [dispatchMoves_append, issueFirst_issue_send, issueFirst_duringWait hwait, issueFirst_closingMove]

/-- Settles O53: a dispatch keeps both duties and leaves none in flight and none unsent, so a second one does too. -/
theorem dispatchMovesKeepTheHostDuties : Obligations.DispatchMovesKeepTheHostDuties := by
  intro s a b xs ys hwait
  obtain ⟨hxs, hys⟩ := List.forall_mem_append.mp hwait
  refine ⟨hostRun_dispatchMoves a xs s, ?_, ?_⟩
  · rw [singleFlight_dispatchMoves hxs, ← List.append_nil (dispatchMoves b _ _), singleFlight_dispatchMoves hys]
    rfl
  · rw [issueFirst_dispatchMoves hxs, ← List.append_nil (dispatchMoves b _ _), issueFirst_dispatchMoves hys]
    rfl

end Sys2Proof.Machine
end

section
/-! PROOFS. Reset and hazards (70_reset_and_hazards.md): the reset step, how long a captured reply is safe, early and
late replies, and the one dispatch in flight. -/

namespace Sys2Proof.Machine

/-! ### Reset -/

theorem msgType_eq_ofNat (x : Ident) : msgType x = BitVec.ofNat 26 x.toNat := by
  apply BitVec.eq_of_toNat_eq
  rw [msgType_toNat, BitVec.toNat_ofNat]

theorem takeReset_cmpl (s : State) (d : ResetDraw) : (s.takeReset d).cmpl = false := by
  cases hm : s.matcher with
  | none => exact cmpl_none (by simp [hm])
  | some m => simp [State.cmpl, hm]

/-- Settles O1: the step is `takeReset`, whose message-type is the draw's identifier at 26 bits. -/
theorem resetStepLoadsTheDraws : Obligations.ResetStepLoadsTheDraws := by
  intro s d rest h
  refine ⟨_, (step_eq_of_inputs h).trans (step_reset s d rest), takeReset_cmpl _ d, ?_⟩
  rw [← msgType_eq_ofNat]
  rfl

/-! ### How long a captured reply is safe -/

theorem sum_steps_eq_length {xs : List Input} (h : ∀ x ∈ xs, x.steps = 1) : (xs.map Input.steps).sum = xs.length := by
  rw [List.map_eq_replicate_iff.mpr h, List.sum_replicate, smul_eq_mul, mul_one]

/-- In Completed, inputs of the wait whose frames are not equal to the expected identifier leave every register
(42_matcher.md R81 case (c)). -/
theorem performAll_completed {s : State} {m : Matcher} {xs : List Input} (hm : s.matcher = some m)
    (hc : m.state = .completed) (hwait : ∀ x ∈ xs, x.duringWait = true)
    (hframe : ∀ x ∈ xs, ∀ f, x.frame? = some f → ¬ (f.ide = true ∧ f.id = m.expId)) :
    (performAll xs s).matcher = some m := by
  refine performAll_unmatched hm hwait fun x hx f hf => ?_
  rw [accepts_other (by simp [hc])]
  exact hframe x hx f hf

/-- Settles O44: the inputs of the list are inputs of the wait of one step each; a frame equal to `EXP_ID` is captured,
and a CONSUME after an ISSUE finds Issued. -/
theorem capturedReplyIsSafeUntilOverwritten : Obligations.CapturedReplyIsSafeUntilOverwritten := by
  intro s m hm hc
  refine ⟨fun xs hxs => ?_, fun f hide hid => ?_, fun id => ?_⟩
  · have hinput : ∀ x ∈ xs, x.steps = 1 ∧ x.duringWait = true ∧
        ∀ f, x.frame? = some f → ¬ (f.ide = true ∧ f.id = m.expId) := by
      intro x hx
      rcases hxs x hx with ⟨c, rfl, hissue, hconsume⟩ | ⟨f, rfl, hf⟩
      · exact ⟨rfl, by simp [Input.duringWait, hissue, hconsume], nofun⟩
      · exact ⟨rfl, rfl, fun g hg => Option.some.inj hg ▸ hf⟩
    simp only [imp_and, forall_and] at hinput
    obtain ⟨hsteps, hwait, hframe⟩ := hinput
    have hrun := run_performAll xs s
    rw [sum_steps_eq_length hsteps] at hrun
    exact ⟨_, hrun, performAll_completed hm hc hwait hframe, performAll_inputs xs s⟩
  · have haccepts : m.accepts f = true := (accepts_other (by simp [hc]) f).mpr ⟨hide, hid⟩
    exact ⟨_, _, exec_rxframe_accepted hm haccepts, rfl, rfl, rfl⟩
  · exact ⟨_, _, _, exec_issue_some hm id, exec_consume_notReady rfl nofun, rfl, rfl⟩

/-! ### Early and late replies -/

/-- Settles O47: the first dispatch leaves a matcher, the second arms it anew, and the late frame is the first with the
message-type it waits for. -/
theorem lateReplyCompletesTheNextDispatch : Obligations.LateReplyCompletesTheNextDispatch := by
  intro s m first second during later x late hm hmt hduring hwait hframe hlate hmatch hlater
  obtain ⟨htimeout, hissued⟩ := dispatch_unmatched hm hduring hframe
  have hcaptured := awaitReply_matched (before := []) hissued hwait nofun hlate (hmt ▸ hmatch) hlater
  obtain ⟨hsuccess, -⟩ := dispatch_of_completed hcaptured rfl
  exact ⟨htimeout, hsuccess⟩

/-- Settles O48: ISSUE arms the matcher anew, whatever the early frame did to it. -/
theorem replyBeforeIssueTimesOut : Obligations.ReplyBeforeIssueTimesOut := by
  intro s m id early during hm hwait hframe
  obtain ⟨htimeout, -⟩ := dispatch_unmatched (perform_receive_matcher hm early) hwait hframe
  exact htimeout

/-! ### One dispatch in flight -/

theorem ends_of_not_consume {x : Input} (h : ∀ c, x.command? = some c → c.word ≠ 0x0D#8) (s : State) :
    (HostMove.present x).ends s = false := by
  have hconsumes : (HostMove.present x).consumes = false := by
    cases hx : x.command? with
    | none => simp [HostMove.consumes, hx]
    | some c => simp [HostMove.consumes, hx, h c hx]
  simp [HostMove.ends, hconsumes]

/-- A move that issues does not end a dispatch: its command is ISSUE, not CONSUME. -/
theorem ends_of_issued {x : HostMove} (h : x.issued ≠ none) (s : State) : x.ends s = false := by
  cases x with
  | send | timeout => exact absurd rfl h
  | present x =>
    refine ends_of_not_consume (fun c hc hconsume => h ?_) s
    simp [HostMove.issued, hc, hconsume]

/-- With no dispatch in flight, moves that do not issue leave none, so an ISSUE after them keeps R108. -/
theorem singleFlight_idle {between : List HostMove} (hbetween : ∀ z ∈ between, z.issued = none) (s : State)
    (y : HostMove) : singleFlight false s (between ++ [y]) = true := by
  induction between generalizing s with
  | nil => simp [singleFlight]
  | cons z between ih =>
    obtain ⟨hz, hrest⟩ := List.forall_mem_cons.mp hbetween
    simp [singleFlight, hz, ih hrest]

/-- Some move of the list, in the state it is made in, ends a dispatch. -/
def someMoveEnds (s : State) (moves : List HostMove) : Prop :=
  ∃ before z after, moves = before ++ z :: after ∧ z.ends (hostRun s before) = true

theorem not_someMoveEnds_nil (s : State) : ¬ someMoveEnds s [] := by
  rintro ⟨before, z, after, h, -⟩
  simp at h

/-- Either the first move ends it, or one of the later ones does after it. -/
theorem someMoveEnds_cons (s : State) (x : HostMove) (moves : List HostMove) :
    someMoveEnds s (x :: moves) ↔ x.ends s = true ∨ someMoveEnds (hostStep s x) moves := by
  constructor
  · rintro ⟨before, z, after, h, hends⟩
    cases before with
    | nil => cases h; exact .inl hends
    | cons b before => cases h; exact .inr ⟨before, z, after, rfl, hends⟩
  · rintro (hends | ⟨before, z, after, rfl, hends⟩)
    · exact ⟨[], x, moves, rfl, hends⟩
    · exact ⟨x :: before, z, after, rfl, hends⟩

/-- With a dispatch in flight, an ISSUE keeps R108 exactly when a move before it has ended the dispatch. -/
theorem singleFlight_busy_iff {between : List HostMove} (hbetween : ∀ z ∈ between, z.issued = none) {y : HostMove}
    (hy : y.issued ≠ none) (s : State) :
    singleFlight true s (between ++ [y]) = true ↔ someMoveEnds s between := by
  induction between generalizing s with
  | nil => simp [singleFlight, Option.isSome_iff_ne_none.mpr hy, not_someMoveEnds_nil]
  | cons z between ih =>
    obtain ⟨hz, hrest⟩ := List.forall_mem_cons.mp hbetween
    rw [someMoveEnds_cons, ← ih hrest]
    cases hends : z.ends s with
    | true => simp [singleFlight, hz, hends, singleFlight_idle hrest]
    | false => simp [singleFlight, hz, hends]

theorem singleFlight_issue {x : HostMove} (hx : x.issued ≠ none) (s : State) (rest : List HostMove) :
    singleFlight false s (x :: rest) = singleFlight true (hostStep s x) rest := by
  simp [singleFlight, Option.isSome_iff_ne_none.mpr hx, ends_of_issued hx]

/-- CONSUME is answered OK exactly at `cmpl` 1 (42_matcher.md R84, R78). -/
theorem Effect.consume_ok_iff {s t : State} (he : Effect s .consume t) :
    s.cmpl = true ↔ ∃ r, t.response = .result r ∧ r.st = .ok := by
  cases he with
  | release hm hc => simp [(cmpl_some hm).mpr hc, Result.zero]
  | notReady hm hc => simp [cmpl_some hm, hc]
  | illegal hm => simp [cmpl_none hm]
  | codec hi => cases hi

theorem perform_consumeWord_ok_iff {c : Command} (h : c.word = 0x0D#8) (s : State) :
    s.cmpl = true ↔ ∃ r, (perform (.command c) s).response = .result r ∧ r.st = .ok := by
  obtain ⟨w, o⟩ := c
  subst h
  have hd : decode (.command { word := 0x0D#8, ops := o }) = some .consume := decode_setWidth 0xD#4 o
  obtain ⟨t, ht, he⟩ := exec_effect .consume s
  rw [perform_operation hd ht]
  exact he.consume_ok_iff

/-- A move that presents CONSUME ends a dispatch exactly when the operation finds `cmpl` 1. -/
theorem ends_of_consume {x : Input} {c : Command} (hx : x.command? = some c) (h : c.word = 0x0D#8) (s : State) :
    (HostMove.present x).ends s = (s.atOperation x).cmpl := by
  simp [HostMove.ends, HostMove.consumes, hx, h]

/-- Settles O52: the first ISSUE puts a dispatch in flight, and CONSUME ends it when it finds `cmpl` 1, in the state
that a frame going first has left. -/
theorem secondIssueNeedsTheDispatchEnded : Obligations.SecondIssueNeedsTheDispatchEnded := by
  refine ⟨fun s x y between hx hy hbetween => ?_, fun s => ⟨rfl, fun _ => rfl⟩, fun s x h => ends_of_not_consume h s,
    fun s c f hconsume => ⟨?_, ?_, ?_⟩⟩
  · rw [List.cons_append, singleFlight_issue hx]
    exact singleFlight_busy_iff hbetween hy (hostStep s x)
  all_goals
    rw [ends_of_consume rfl hconsume]
    exact perform_consumeWord_ok_iff hconsume _

end Sys2Proof.Machine
end

section
/-! PROOFS. The state after reset (10_state.md section 5, 70_reset_and_hazards.md R104) meets the invariant. -/

namespace Sys2Proof.Machine

/-- `State.reset` is what a reset step with Config's draws makes of itself, and every reset step leaves sound
registers (70_reset_and_hazards.md R104). -/
theorem reset_registersSound : State.reset.RegistersSound := by
  rw [← reset_eq_takeReset State.reset rfl rfl rfl]
  exact takeReset_registersSound _ _

/-- Settles O2: the registers are sound as after every reset step, RUNSTATE_LEN is 8, the response is the zero
result. -/
theorem resetStateMeetsTheInvariant : Obligations.ResetStateMeetsTheInvariant := by
  have hlen : legalRunStateLen State.reset.runStateLen = true := by decide
  have hinv : State.reset.Inv := inv_of_result reset_registersSound hlen rfl Result.zero_sound
  exact ⟨hinv, rfl, rfl, rfl⟩

end Sys2Proof.Machine
end
